-- ==== Sys2Proof/Word.lean ====
section
/-! DEFINITION. The word types of the block: whole octets, and the 4-bit sequence number (00_scope.md section 4.1). -/
namespace Sys2Proof

/-- One octet, unsigned, bit 0 the least significant (R42). -/
abbrev Byte := BitVec 8

/-- The 4-bit cyclic sequence number (R21, R68, R109). -/
abbrev Seq := BitVec 4

end Sys2Proof
end

