-- ==== Sys2Proof/Config.lean ====
section
/-! DEFINITION. The implementation parameters of 00_scope.md rule R4, and the free values of 93_implementation_defined.md. -/
namespace Sys2Proof.Config

/-- Start marker, first and fourth header byte (R4, R61). -/
def START : Byte := 0x68#8

/-- Stop marker, last byte of a frame (R4, R61). -/
def STOP : Byte := 0x16#8

/-- Length of the sliding window (R4, R11). -/
def WIN : Nat := 4

/-- Declared length minus payload length (R4, R63). -/
def LEN_OVERHEAD : Nat := 2

/-- Smallest declared length the header recogniser accepts (R4, decision D3). -/
def LEN_MIN : Nat := 2

/-- Largest declared length: LEN is one byte (R4). -/
def LEN_MAX : Nat := 255

/-- Size of the frame buffer, 253 (R4, R18). -/
def PAYLOAD_MAX : Nat := LEN_MAX - LEN_OVERHEAD

/-- Payload bytes before the segment data (R4, R66). -/
def SEG_HDR : Nat := 3

/-- The bit of CONTROL-INFO that is the finish flag (R4, R68). -/
def FIN_BIT : Nat := 4

/-- The modulus of the checksum, that of a `Byte` (R4, R90). -/
def SUM_MOD : Nat := 256

/-- Width of the sequence number, the low bits of CONTROL-INFO (R4, R68). -/
abbrev SEQ_BITS : Nat := 4

/-- The modulus of the sequence number (R4, R109). -/
def SEQ_MOD : Nat := 2 ^ SEQ_BITS

/-- Longest frame on the wire in bytes, 261 (R4, R63). -/
def FRAME_MAX : Nat := LEN_MAX + 6

/-- The window is emptied when a header is recognised (R4, decision D2; log 7). -/
def WINDOW_FLUSH : Bool := true

/-- CONTROL-INFO bits 7:5 are not examined (R4, R70, decision D5; log 7). The spec gives the value false no behaviour of
its own, so no definition branches on it. -/
def CI_RESERVED_IGNORED : Bool := true

/-- The output pins that may show any value (93_implementation_defined.md U8). -/
inductive FreePin where
  | infoA | infoB
  | msgSrc | msgDst
  | msgRdata (raddr : Nat)
  deriving DecidableEq, Repr

/-- FREE VALUE (log 8): what a pin of U8 shows while the spec gives it no value. -/
opaque freeByte : FreePin → Nat → Byte

/-- FREE VALUE (log 8): what `msg_len` shows while `msg_valid` is 0 (U8), before it is cut to the width of the pin. -/
opaque freeLen : Nat → Nat

/-- FREE VALUE (log 15), downstream only: the output of AES-GCM sealing, which the spec does not define (U28, N14).
Arguments: key, nonce, associated data, input. -/
opaque aeadSeal : List Byte → List Byte → List Byte → List Byte → List Byte

/-- The nonce length of the consumer's AEAD, "typically 12 bytes" (R132; log 15), downstream only. -/
def AEAD_NONCE_LEN : Nat := 12

end Sys2Proof.Config

namespace Sys2Proof

/-- The parameters that an instance of the block chooses (R4): `MSG_CAP` is OPEN, a number of bytes, or infinity (`none`),
which is the reference model's value (decision D8; log 6). -/
structure Params where
  msgCap : Option Nat := none
  deriving DecidableEq, Repr

/-- The width of `mlen`, ceil(log2(MSG_CAP + 1)) bits, for a finite capacity (R23): the number of binary digits of the capacity. -/
def Params.mlenWidth (p : Params) : Option Nat :=
  p.msgCap.map fun c => if c = 0 then 0 else Nat.log2 c + 1

end Sys2Proof
end

