-- ==== Sys2Proof/Syntax.lean ====
section
/-! DEFINITION. The abstract syntax: the four operations of opcode_table.json (R60), the input symbols and the output events (R5). -/
namespace Sys2Proof

/-- The operations of the block's wire protocol, one constructor per row of opcode_table.json. The fixed bits of a row are
no operand; every other bit of its encoding is one. -/
inductive Instr where
  /-- `FRAME.HDR` (R62, R82): the header bytes `68 len1 len2 68`. -/
  | frameHdr (len1 len2 : Byte)
  /-- `FRAME.TRL` (R65, R87): the trailer bytes `chk 16`. -/
  | frameTrl (chk : Byte)
  /-- `SEG` (R66, R69, R103): a segment with the finish flag clear. `rsv` is CONTROL-INFO bits 7:5. -/
  | seg (rsv : BitVec 3) (seq : Seq) (src dst : Byte) (data : List Byte)
  /-- `SEGF` (R66, R69, R104): a segment with the finish flag set. -/
  | segf (rsv : BitVec 3) (seq : Seq) (src dst : Byte) (data : List Byte)
  deriving DecidableEq, Repr

/-- Where in the protocol a byte string stands, which says what it is decoded as (R60): the four bytes of the window, the two
bytes of the trailer, or the payload of a valid frame. -/
inductive Slot where
  | header | trailer | segment
  deriving DecidableEq, Repr

/-- The place an operation is decoded at (R60). -/
def Instr.slot : Instr → Slot
  | .frameHdr _ _ => .header
  | .frameTrl _ => .trailer
  | .seg _ _ _ _ _ => .segment
  | .segf _ _ _ _ _ => .segment

/-- A payload read with the layout of R66 and the bit fields of R68. -/
structure Segment where
  rsv : BitVec 3
  fin : Bool
  seq : Seq
  src : Byte
  dst : Byte
  data : List Byte
  deriving DecidableEq, Repr

/-- The operation a segment stands for: SEG if `fin` = 0, SEGF if `fin` = 1 (R101). -/
def Segment.toInstr (g : Segment) : Instr :=
  match g.fin with
  | false => .seg g.rsv g.seq g.src g.dst g.data
  | true => .segf g.rsv g.seq g.src g.dst g.data

/-- An input symbol (R5). -/
inductive InSym where
  | byte (b : Byte) | eos | err
  deriving DecidableEq, Repr

/-- The value of a valid link frame (R5, R88). -/
structure LinkFrame where
  len : Byte
  ctrl : Byte
  addr : Byte
  payload : List Byte
  chk : Byte
  deriving DecidableEq, Repr

/-- The value of a completed message (R5, R105). -/
structure LogicalMessage where
  src : Byte
  dst : Byte
  buf : List Byte
  deriving DecidableEq, Repr

/-- An output event (R5, R141). -/
inductive OutEvent where
  | frameOk (f : LinkFrame)
  | badStop (got : Byte)
  | badChecksum (received computed : Byte)
  | seqMismatch (got expected : Seq)
  | runtSegment (plen : Fin 3)
  | msgOverflow
  | message (m : LogicalMessage)
  | fatalEos
  | fatalErr
  deriving DecidableEq, Repr

/-- The code of an event (the table of R141). -/
def OutEvent.code : OutEvent → Nat
  | .frameOk _ => 0
  | .message _ => 1
  | .badStop _ => 2
  | .badChecksum _ _ => 3
  | .seqMismatch _ _ => 4
  | .runtSegment _ => 5
  | .msgOverflow => 6
  | .fatalEos => 14
  | .fatalErr => 15

/-- The classes of R140 and R141. -/
inductive EventClass where
  | result | recoverable | fatal
  deriving DecidableEq, Repr

/-- The class of an event (the table of R141). -/
def OutEvent.eventClass : OutEvent → EventClass
  | .frameOk _ => .result
  | .message _ => .result
  | .badStop _ => .recoverable
  | .badChecksum _ _ => .recoverable
  | .seqMismatch _ _ => .recoverable
  | .runtSegment _ => .recoverable
  | .msgOverflow => .recoverable
  | .fatalEos => .fatal
  | .fatalErr => .fatal

end Sys2Proof
end

