-- ==== Sys2Proof/Machine/State.lean ====
section
/-! DEFINITION. The state of the block as plain data (10_state.md), what can stop a step, and the state after reset. -/
namespace Sys2Proof.Machine

/-- The frame buffer `FB` (R18, R40, R46): a list of (offset, byte) with rising offsets and no entry equal to `fillByte`. -/
abbrev Memory := List Host.Cell

/-- What an unlisted offset of the frame buffer reads as. DESIGN CHOICE (log 4): R33 leaves the entries unspecified. -/
def fillByte : Byte := 0x00#8

/-- The framer's phase (R12). -/
inductive FPhase where
  | hunt | ctrl | addr | payload | chk | stop
  deriving DecidableEq, Repr

/-- The sticky fatal condition (R19). -/
inductive Fatal where
  | none | eos | err
  deriving DecidableEq, Repr

/-- The reassembler's state (R20). -/
inductive RState where
  | idle | assembling
  deriving DecidableEq, Repr

/-- The framer's registers (R10 to R18). -/
structure Framer where
  fphase : FPhase
  /-- the window, `w3` the byte consumed last (R11) -/
  w0 : Byte
  w1 : Byte
  w2 : Byte
  w3 : Byte
  /-- how many window positions hold a consumed byte (R11) -/
  wcnt : Nat
  flen : Byte
  fctrl : Byte
  faddr : Byte
  fsum : Byte
  fchk : Byte
  fidx : Byte
  fbuf : Memory
  deriving DecidableEq, Repr

/-- The reassembler's registers (R20 to R23). -/
structure Reassembler where
  rstate : RState
  rexp : Seq
  msrc : Byte
  mdst : Byte
  mbuf : List Byte
  deriving DecidableEq, Repr

/-- The `frm_*` output registers (R30). -/
structure FramePort where
  frmLen : Byte
  frmCtrl : Byte
  frmAddr : Byte
  frmChk : Byte
  deriving DecidableEq, Repr

/-- The input pins at one rising clock edge (R29, R31). -/
structure Pins where
  rst : Bool := false
  inValid : Bool := false
  inData : Byte := 0#8
  inEos : Bool := false
  inErr : Bool := false
  msgReady : Bool := false
  deriving DecidableEq, Repr

/-- The whole state. -/
structure State where
  framer : Framer
  reasm : Reassembler
  fatal : Fatal
  /-- the events of the step taken at the last edge, in order (R5, R30; log 11) -/
  events : List OutEvent
  frm : FramePort
  /-- the message waiting on the message port (R31) -/
  msg : Option LogicalMessage
  /-- MODEL'S OWN (log 6): the build-time parameters, written by no step -/
  params : Params
  /-- MODEL'S OWN (log 1): the input pins at the coming edges; past the end of the list they are idle -/
  pins : List Pins
  /-- MODEL'S OWN (log 8): the counter the free values are taken from -/
  freeIdx : Nat
  deriving DecidableEq, Repr

/-- The ways a step can stop. -/
inductive Fault where
  /-- Raised by a PAYLOAD step whose `fidx` is no offset of the frame buffer (R18: 253 entries). Safe: no state that meets the
  invariants of R34 reaches it (log 5). -/
  | frameBufferRange (offset : Nat)
  deriving DecidableEq, Repr

/-- Refusals. -/
inductive Refusal where
  /-- Raised only by an arm of `exec` whose instruction has no meaning yet; none is left. Safe. -/
  | notModelled (mnemonic : String)
  deriving DecidableEq, Repr

/-- What one meaning, and one step, answers. -/
abbrev Result := Host.Outcome State Fault Refusal

/-- The state after reset (R33, R170). The registers R33 calls unspecified hold zero (DESIGN CHOICE, log 3). -/
def State.reset : State where
  framer :=
    { fphase := .hunt, w0 := 0#8, w1 := 0#8, w2 := 0#8, w3 := 0#8, wcnt := 0, flen := 0#8, fctrl := 0#8, faddr := 0#8
      fsum := 0#8, fchk := 0#8, fidx := 0#8, fbuf := [] }
  reasm := { rstate := .idle, rexp := 0#4, msrc := 0#8, mdst := 0#8, mbuf := [] }
  fatal := .none
  events := []
  frm := { frmLen := 0#8, frmCtrl := 0#8, frmAddr := 0#8, frmChk := 0#8 }
  msg := none
  params := {}
  pins := []
  freeIdx := 0

end Sys2Proof.Machine
end

