-- ==== Sys2Proof/Machine/Ops.lean ====
section
/-! DEFINITION. The shared operations: the frame buffer, raising an event (this block's exception entry), the drop of a message,
the fatal condition, reset, and the hand-over on the message port. -/
namespace Sys2Proof.Machine

/-- `MemRead(FB, a, 1)` (R46): the byte at an offset. -/
def Memory.read : Memory → Nat → Byte
  | [], _ => fillByte
  | (k, v) :: m, a => if k = a then v else Memory.read m a

/-- `MemWrite(FB, a, 1, b)` (R46), keeping the canonical form: a byte equal to `fillByte` is not listed. -/
def Memory.write : Memory → Nat → Byte → Memory
  | [], a, b => if b = fillByte then [] else [(a, b)]
  | (k, v) :: m, a, b =>
    if a < k then (if b = fillByte then (k, v) :: m else (a, b) :: (k, v) :: m)
    else if a = k then (if b = fillByte then m else (a, b) :: m)
    else (k, v) :: Memory.write m a b

/-- The canonical form: rising offsets, no entry that reads as an unlisted one. -/
def Memory.wf : Memory → Bool
  | [] => true
  | (k, v) :: m => v != fillByte && m.all (fun c => decide (k < c.1)) && Memory.wf m

/-- Every listed offset is one the frame buffer has (R18). -/
def Memory.inRange (m : Memory) : Bool := m.all fun c => decide (c.1 < Config.PAYLOAD_MAX)

/-- The first `n` bytes of the buffer, in order (R88). -/
def Memory.prefixBytes (m : Memory) (n : Nat) : List Byte := (List.range n).map fun i => m.read i

/-- `raise Ev(info)`, and `emit`, its synonym (00_scope.md section 4.2, R151): the one operation by which every event happens.
It appends the event to the step's output list. No context is saved and control goes nowhere; the state change a rule lists
with its event is made by that rule. `FRAME_OK` updates the `frm_*` registers (R30), `MESSAGE` puts its copy of the message on the message port (R31). -/
def raise (e : OutEvent) (s : State) : State :=
  match e with
  | .frameOk f => { s with events := s.events ++ [e], frm := ⟨f.len, f.ctrl, f.addr, f.chk⟩ }
  | .message m => { s with events := s.events ++ [e], msg := some m }
  | .badStop _ => { s with events := s.events ++ [e] }
  | .badChecksum _ _ => { s with events := s.events ++ [e] }
  | .seqMismatch _ _ => { s with events := s.events ++ [e] }
  | .runtSegment _ => { s with events := s.events ++ [e] }
  | .msgOverflow => { s with events := s.events ++ [e] }
  | .fatalEos => { s with events := s.events ++ [e] }
  | .fatalErr => { s with events := s.events ++ [e] }

/-- `mbuf <- []; rstate <- IDLE; rexp <- 0`: the reassembler's return to Idle (R104, R106 to R108). -/
def toIdle (s : State) : State :=
  { s with reasm := { s.reasm with rstate := .idle, rexp := 0#4, mbuf := [] } }

/-- The whole effect of a reassembler's error event: the event, and the message in progress dropped (R106 to R108). -/
def dropWith (e : OutEvent) (s : State) : State := raise e (toIdle s)

/-- `fphase <- HUNT`, the end of a frame attempt (R87). -/
def toHunt (s : State) : State := { s with framer := { s.framer with fphase := .hunt } }

/-- The symbol `EOS` (R147): the event and the sticky condition, no other register. -/
def fatalEos (s : State) : State := raise .fatalEos { s with fatal := .eos }

/-- The symbol `ERR` (R148). -/
def fatalErr (s : State) : State := raise .fatalErr { s with fatal := .err }

/-- `fbuf[a] <- b` (R46). The offset is one of the buffer's, or the step faults (R18; log 5). -/
def writeFrameBuffer (a : Nat) (b : Byte) (s : State) : Result :=
  if a < Config.PAYLOAD_MAX then
    .next { s with framer := { s.framer with fbuf := s.framer.fbuf.write a b } }
  else .fault (.frameBufferRange a)

/-- A new step's output list is empty: the event outputs show one edge's events (R5, R30; log 11). -/
def clearEvents (s : State) : State := { s with events := [] }

/-- A rising edge with `rst` = 1 (R29, R170): the state after reset, and nothing else. The parameters, the coming pin samples
and the counter of the free values are not the block's state, so they stay (log 12). -/
def resetBlock (s : State) : State :=
  { State.reset with params := s.params, pins := s.pins, freeIdx := s.freeIdx }

/-- A rising edge at which no symbol is consumed (R29, R31, R32): the event outputs return to 0, and a waiting message is taken
if the consumer is ready. -/
def idleEdge (msgReady : Bool) (s : State) : State :=
  { s with events := [], msg := if msgReady then none else s.msg }

/-- The pin sample of the coming edge is used up, and the counter of the free values moves on (logs 1, 8). -/
def takePins (s : State) : State :=
  { s with pins := s.pins.tail, freeIdx := s.freeIdx + 1 }

end Sys2Proof.Machine
end

