-- ==== Sys2Proof/Machine/Flags.lean ====
section
/-! DEFINITION. The one-bit conditions and the output pins. The block keeps no flag register (R25): every pin is a view of the state. -/
namespace Sys2Proof.Machine

/-- A message of this length does not fit in the instance's buffer (R108). -/
def exceedsCap (p : Params) (len : Nat) : Bool :=
  match p.msgCap with
  | none => false
  | some cap => decide (cap < len)

/-- `mlen`, the length of the message buffer (R23). -/
def State.mlen (s : State) : Nat := s.reasm.mbuf.length

/-- `in_ready` (R29): no fatal condition, and no message waiting. -/
def State.inReady (s : State) : Bool := decide (s.fatal = .none) && s.msg.isNone

/-- `fatal_o` (R30). -/
def State.fatalO (s : State) : BitVec 2 :=
  match s.fatal with
  | .none => 0#2
  | .eos => 1#2
  | .err => 2#2

/-- `ev_frame_ok` (R30, R141). -/
def State.evFrameOk (s : State) : Bool := s.events.any fun e => e.code == 0

/-- `ev_bad_stop` (R30, R141). -/
def State.evBadStop (s : State) : Bool := s.events.any fun e => e.code == 2

/-- `ev_bad_chk` (R30, R141). -/
def State.evBadChk (s : State) : Bool := s.events.any fun e => e.code == 3

/-- `ev_seq_mismatch` (R30, R141). -/
def State.evSeqMismatch (s : State) : Bool := s.events.any fun e => e.code == 4

/-- `ev_runt` (R30, R141). -/
def State.evRunt (s : State) : Bool := s.events.any fun e => e.code == 5

/-- `ev_overflow` (R30, R141). -/
def State.evOverflow (s : State) : Bool := s.events.any fun e => e.code == 6

/-- Info a of an error event (the table of R141). -/
def OutEvent.infoA : OutEvent → Option Byte
  | .badStop got => some got
  | .badChecksum received _ => some received
  | .seqMismatch got _ => some (got.setWidth 8)
  | .runtSegment plen => some (BitVec.ofNat 8 plen.val)
  | .msgOverflow => none
  | .frameOk _ => none
  | .message _ => none
  | .fatalEos => none
  | .fatalErr => none

/-- Info b of an error event (the table of R141). -/
def OutEvent.infoB : OutEvent → Option Byte
  | .badChecksum _ computed => some computed
  | .seqMismatch _ expected => some (expected.setWidth 8)
  | .badStop _ => none
  | .runtSegment _ => none
  | .msgOverflow => none
  | .frameOk _ => none
  | .message _ => none
  | .fatalEos => none
  | .fatalErr => none

/-- `ev_info_a` (R30): info a of the step's error event, any value where there is none (U8; log 8). -/
def State.evInfoA (s : State) : Byte :=
  (s.events.findSome? OutEvent.infoA).getD (Config.freeByte .infoA s.freeIdx)

/-- `ev_info_b` (R30), as `ev_info_a`. -/
def State.evInfoB (s : State) : Byte :=
  (s.events.findSome? OutEvent.infoB).getD (Config.freeByte .infoB s.freeIdx)

/-- `msg_valid` (R31). -/
def State.msgValid (s : State) : Bool := s.msg.isSome

/-- `msg_src` (R31); any value while `msg_valid` is 0 (U8; log 8). -/
def State.msgSrc (s : State) : Byte :=
  match s.msg with
  | some m => m.src
  | none => Config.freeByte .msgSrc s.freeIdx

/-- `msg_dst` (R31); any value while `msg_valid` is 0 (U8; log 8). -/
def State.msgDst (s : State) : Byte :=
  match s.msg with
  | some m => m.dst
  | none => Config.freeByte .msgDst s.freeIdx

/-- A number cut to the width of `mlen` (R23, R31). -/
def cutToLenWidth (p : Params) (n : Nat) : Nat :=
  match p.mlenWidth with
  | none => n
  | some w => n % 2 ^ w

/-- `msg_len` (R31); any value of its width while `msg_valid` is 0 (U8; log 8). -/
def State.msgLen (s : State) : Nat :=
  match s.msg with
  | some m => m.buf.length
  | none => cutToLenWidth s.params (Config.freeLen s.freeIdx)

/-- `msg_rdata` at the address `msg_raddr`, a combinational read (R31); any value past the end, or while `msg_valid` is 0
(U8; log 8). -/
def State.msgRdata (raddr : Nat) (s : State) : Byte :=
  match s.msg with
  | some m => (m.buf[raddr]?).getD (Config.freeByte (.msgRdata raddr) s.freeIdx)
  | none => Config.freeByte (.msgRdata raddr) s.freeIdx

end Sys2Proof.Machine
end

