-- ==== Sys2Proof/WellFormed.lean ====
section
/-! DEFINITION. Which instructions are well formed: the side conditions of opcode_table.json that the encoding alone decides. -/
namespace Sys2Proof

/-- A header's two length bytes agree and are at least `LEN_MIN` (R62); a segment's data fits in a payload (R48, R63).
The conditions of `FRAME.TRL` (the checksum) and of the segments (the expected number) depend on the state, so they stand in
the meanings. -/
def Instr.wf : Instr → Bool
  | .frameHdr len1 len2 => len1 == len2 && decide (Config.LEN_MIN ≤ len1.toNat)
  | .frameTrl _ => true
  | .seg _ _ _ _ data => decide (data.length ≤ Config.PAYLOAD_MAX - Config.SEG_HDR)
  | .segf _ _ _ _ data => decide (data.length ≤ Config.PAYLOAD_MAX - Config.SEG_HDR)

end Sys2Proof
end

