-- ==== Sys2Proof/Decode.lean ====
section
/-! DEFINITION. The decoder, total on any bytes and rejecting by name, then the encoder (30_encoding.md). -/
namespace Sys2Proof

/-- Why a byte string is no operation of its slot. -/
inductive DecodeError where
  /-- not the number of bytes the format has -/
  | wrongSize (n : Nat)
  /-- the first header byte is not the start marker (R62) -/
  | badStart1 (got : Byte)
  /-- the fourth header byte is not the start marker (R62) -/
  | badStart2 (got : Byte)
  /-- the byte at the stop position is not the stop marker (R65) -/
  | badStop (got : Byte)
  /-- the payload is too short for the layout of R66 (R71, R107) -/
  | runt (plen : Fin 3)
  deriving DecidableEq, Repr

/-- CONTROL-INFO bits 7:5 (R68). -/
def ciRsv (ci : Byte) : BitVec 3 := ci.extractLsb' 5 3

/-- CONTROL-INFO bit 4, the finish flag (R68). -/
def ciFin (ci : Byte) : Bool := ci.getLsbD Config.FIN_BIT

/-- CONTROL-INFO bits 3:0, the sequence number (R68). -/
def ciSeq (ci : Byte) : Seq := ci.extractLsb' 0 Config.SEQ_BITS

/-- Format LF, the header `68 len1 len2 68`: match 0x68000068, mask 0xFF0000FF (R62). Whether the two lengths make it a header
is the side condition, tested by the meaning (R82; log 9). -/
def decodeHeader : List Byte → Except DecodeError Instr
  | [s1, len1, len2, s2] =>
    if s1 ≠ Config.START then .error (.badStart1 s1)
    else if s2 ≠ Config.START then .error (.badStart2 s2)
    else .ok (.frameHdr len1 len2)
  | bs => .error (.wrongSize bs.length)

/-- Format LF, the trailer `chk 16`: match 0x0016, mask 0x00FF (R65). -/
def decodeTrailer : List Byte → Except DecodeError Instr
  | [chk, stop] => if stop ≠ Config.STOP then .error (.badStop stop) else .ok (.frameTrl chk)
  | bs => .error (.wrongSize bs.length)

/-- Format SG: the payload `CI SRC DST data` of a valid frame (R66, R101), or the length of a runt. -/
def parseSegment : List Byte → Except (Fin 3) Segment
  | [] => .error 0
  | [_] => .error 1
  | [_, _] => .error 2
  | ci :: src :: dst :: data => .ok ⟨ciRsv ci, ciFin ci, ciSeq ci, src, dst, data⟩

/-- Format SG as an operation: SEG or SEGF by the finish flag (R69, R101). -/
def decodeSegment (payload : List Byte) : Except DecodeError Instr :=
  match parseSegment payload with
  | .ok g => .ok g.toInstr
  | .error plen => .error (.runt plen)

/-- The operation a byte string stands for in its slot, or the name of what is wrong with it. -/
def decode : Slot → List Byte → Except DecodeError Instr
  | .header, bs => decodeHeader bs
  | .trailer, bs => decodeTrailer bs
  | .segment, bs => decodeSegment bs

/-- The CONTROL-INFO byte of the three fields of R68. -/
def ciByte (rsv : BitVec 3) (fin : Bool) (seq : Seq) : Byte := rsv ++ BitVec.ofBool fin ++ seq

/-- The bytes of an operation, in the order they are received (R62, R65, R66). -/
def encode : Instr → List Byte
  | .frameHdr len1 len2 => [Config.START, len1, len2, Config.START]
  | .frameTrl chk => [chk, Config.STOP]
  | .seg rsv seq src dst data => ciByte rsv false seq :: src :: dst :: data
  | .segf rsv seq src dst data => ciByte rsv true seq :: src :: dst :: data

/-- The sum of bytes modulo 256 (R61, R90). -/
def byteSum : List Byte → Byte
  | [] => 0#8
  | b :: bs => b + byteSum bs

/-- The checksum of a frame, `(ctrl + addr + sum(payload)) mod 256` (R61). -/
def frameChecksum (ctrl addr : Byte) (payload : List Byte) : Byte := ctrl + addr + byteSum payload

/-- `SEGMENT(seq, fin, src, dst, data)` of R74: CONTROL-INFO bits 7:5 are 0. -/
def segmentBytes (seq : Seq) (fin : Bool) (src dst : Byte) (data : List Byte) : List Byte :=
  ciByte 0#3 fin seq :: src :: dst :: data

/-- `FRAME(ctrl, addr, payload)` of R74; it needs a payload of at most 253 bytes. -/
def frameBytes (ctrl addr : Byte) (payload : List Byte) : List Byte :=
  let len : Byte := BitVec.ofNat 8 (payload.length + Config.LEN_OVERHEAD)
  [Config.START, len, len, Config.START, ctrl, addr] ++ payload
    ++ [frameChecksum ctrl addr payload, Config.STOP]

/-- Byte `k` of a number, byte 0 the least significant. -/
def byteOf (w k : Nat) : Byte := BitVec.ofNat 8 (w / 2 ^ (8 * k))

/-- The bytes of a word of opcode_table.json in the order they are received, and the slot they stand in. The first-received byte
is the most significant one (R62, R65; log 13); a segment's operand bytes SRC and DST, which the table gives no bits, are 0. -/
def tableBytes (nbits w : Nat) : Option (Slot × List Byte) :=
  match nbits with
  | 32 => some (.header, [byteOf w 3, byteOf w 2, byteOf w 1, byteOf w 0])
  | 16 => some (.trailer, [byteOf w 1, byteOf w 0])
  | 8 => some (.segment, [byteOf w 0, 0#8, 0#8])
  | _ => none

/-- The instruction the decoder reads from a word of opcode_table.json. -/
def decodeTableWord (nbits w : Nat) : Option Instr :=
  match tableBytes nbits w with
  | some (slot, bytes) => (decode slot bytes).toOption
  | none => none

end Sys2Proof
end

