-- ==== Sys2Proof/Machine/Operands.lean ====
section
/-! DEFINITION. What the operations read: the input symbol, the window, the link frame, the expectation, the message under assembly. -/
namespace Sys2Proof.Machine

/-- The symbol the input port offers: `ERR` before `EOS` before a byte (R29). -/
def symbolOf (p : Pins) : InSym :=
  if p.inErr then .err else if p.inEos then .eos else .byte p.inData

/-- The pins that offer a symbol. -/
def pinsOf : InSym → Pins
  | .byte b => { inValid := true, inData := b }
  | .eos => { inValid := true, inEos := true }
  | .err => { inValid := true, inErr := true }

/-- The four window bytes, oldest first (R11). -/
def windowBytes (s : State) : List Byte := [s.framer.w0, s.framer.w1, s.framer.w2, s.framer.w3]

/-- The operation the window holds, if it is full and has the pattern of R62 (R82). -/
def fetchHeader (s : State) : Option Instr :=
  if s.framer.wcnt = Config.WIN then (decode .header (windowBytes s)).toOption else none

/-- The payload length of the attempt in progress, `flen - 2` in the natural numbers (R13). -/
def payloadLen (s : State) : Nat := s.framer.flen.toNat - Config.LEN_OVERHEAD

/-- The `LinkFrame` of a valid trailer, its payload a copy of `fbuf[0 .. flen-3]` (R88). -/
def linkFrame (chk : Byte) (s : State) : LinkFrame where
  len := s.framer.flen
  ctrl := s.framer.fctrl
  addr := s.framer.faddr
  payload := s.framer.fbuf.prefixBytes (payloadLen s)
  chk := chk

/-- The sequence number the reassembler accepts (R102). -/
def expectation (s : State) : Seq :=
  match s.reasm.rstate with
  | .idle => 0#4
  | .assembling => s.reasm.rexp

/-- The message an accepted segment makes: its own in Idle, the message in progress extended otherwise (R103, R104, R110). -/
def assembled (src dst : Byte) (data : List Byte) (s : State) : LogicalMessage :=
  match s.reasm.rstate with
  | .idle => ⟨src, dst, data⟩
  | .assembling => ⟨s.reasm.msrc, s.reasm.mdst, s.reasm.mbuf ++ data⟩

end Sys2Proof.Machine
end

