-- ==== Sys2Proof/Machine/Reassembler.lean ====
section
/-! DEFINITION. The reassembler (41_reassembler.md): the meanings of SEG and SEGF, the runt, and the delivery of a payload. -/
namespace Sys2Proof.Machine

/-- A message is started (R103, the branch of Idle): identifiers and data from this segment, and 1 expected next. -/
def startMessage (src dst : Byte) (data : List Byte) (s : State) : State :=
  { s with reasm := { rstate := .assembling, rexp := 1#4, msrc := src, mdst := dst, mbuf := data } }

/-- A continuation (R103): the data is appended and the expected number goes up modulo 16; the identifiers stay (R110). -/
def appendSegment (data : List Byte) (s : State) : State :=
  { s with reasm := { s.reasm with mbuf := s.reasm.mbuf ++ data, rexp := s.reasm.rexp + 1#4 } }

/-- `SEG` (R103, R106, R108). CONTROL-INFO bits 7:5 are not examined (R70). -/
def execSeg (_rsv : BitVec 3) (seq : Seq) (src dst : Byte) (data : List Byte) (s : State) : Result :=
  if seq ≠ expectation s then .next (dropWith (.seqMismatch seq (expectation s)) s)
  else if exceedsCap s.params (assembled src dst data s).buf.length then .next (dropWith .msgOverflow s)
  else
    match s.reasm.rstate with
    | .idle => .next (startMessage src dst data s)
    | .assembling => .next (appendSegment data s)

/-- `SEGF` (R104, R106, R108). The finish flag is looked at only on an accepted segment. -/
def execSegf (_rsv : BitVec 3) (seq : Seq) (src dst : Byte) (data : List Byte) (s : State) : Result :=
  if seq ≠ expectation s then .next (dropWith (.seqMismatch seq (expectation s)) s)
  else if exceedsCap s.params (assembled src dst data s).buf.length then .next (dropWith .msgOverflow s)
  else .next (raise (.message (assembled src dst data s)) (toIdle s))

/-- A runt (R107): dropped like a mismatch, no byte of it interpreted. -/
def runtSegment (plen : Fin 3) (s : State) : Result := .next (dropWith (.runtSegment plen) s)

/-- Delivery of a valid frame's payload (R100, R101): one segment, or a runt. -/
def deliver (payload : List Byte) (s : State) : Result :=
  match parseSegment payload with
  | .error plen => runtSegment plen s
  | .ok g =>
    match g.fin with
    | false => execSeg g.rsv g.seq g.src g.dst g.data s
    | true => execSegf g.rsv g.seq g.src g.dst g.data s

end Sys2Proof.Machine
end

