-- ==== Sys2Proof/Machine/Framer.lean ====
section
/-! DEFINITION. The framer (40_framer.md): the meanings of FRAME.HDR and FRAME.TRL, and what a byte does in each phase. -/
namespace Sys2Proof.Machine

/-- `HUNT.SHIFT` (R81): the byte enters the window. -/
def huntShift (b : Byte) (s : State) : State :=
  { s with framer :=
      { s.framer with w0 := s.framer.w1, w1 := s.framer.w2, w2 := s.framer.w3, w3 := b
                      wcnt := min (s.framer.wcnt + 1) Config.WIN } }

/-- A recognised header (R82): the frame attempt begins and the window is emptied (`WINDOW_FLUSH`). -/
def beginAttempt (len : Byte) (s : State) : State :=
  { s with framer :=
      { s.framer with flen := len, fsum := 0#8, fidx := 0#8, fphase := .ctrl
                      wcnt := if Config.WINDOW_FLUSH then 0 else s.framer.wcnt } }

/-- `FRAME.HDR` (R82), on the state after the shift of R81. A candidate whose lengths differ or are below `LEN_MIN` is not a
header: hunting continues with the window kept and no event (R71; log 9). -/
def execFrameHdr (len1 len2 : Byte) (s : State) : Result :=
  if len1 = len2 ∧ Config.LEN_MIN ≤ len1.toNat then .next (beginAttempt len1 s) else .next s

/-- The CTRL phase (R83). -/
def ctrlByte (b : Byte) (s : State) : State :=
  { s with framer := { s.framer with fctrl := b, fsum := b, fphase := .addr } }

/-- The ADDR phase (R84): an empty payload goes straight to CHK. -/
def addrByte (b : Byte) (s : State) : State :=
  { s with framer :=
      { s.framer with faddr := b, fsum := s.framer.fsum + b
                      fphase := if Config.LEN_OVERHEAD < s.framer.flen.toNat then .payload else .chk } }

/-- The registers of the PAYLOAD phase after its write to the frame buffer (R85). -/
def payloadCount (b : Byte) (s : State) : State :=
  { s with framer :=
      { s.framer with fsum := s.framer.fsum + b, fidx := s.framer.fidx + 1#8
                      fphase := if s.framer.fidx.toNat + 1 = payloadLen s then .chk else .payload } }

/-- The PAYLOAD phase (R85). -/
def payloadByte (b : Byte) (s : State) : Result :=
  writeFrameBuffer s.framer.fidx.toNat b (payloadCount b s)

/-- The CHK phase (R86): the byte is held, neither summed nor compared. -/
def chkByte (b : Byte) (s : State) : State :=
  { s with framer := { s.framer with fchk := b, fphase := .stop } }

/-- The byte at the stop position is not the stop marker (R87, R142). -/
def badStop (got : Byte) (s : State) : State := raise (.badStop got) (toHunt s)

/-- `FRAME.TRL` (R87), its stop byte right: the checksum verdict, and on a valid frame `FRAME_OK` and the delivery, in this
order in the one step (R53, R150). -/
def execFrameTrl (chk : Byte) (s : State) : Result :=
  if chk ≠ s.framer.fsum then .next (raise (.badChecksum chk s.framer.fsum) (toHunt s))
  else deliver (linkFrame chk s).payload (raise (.frameOk (linkFrame chk s)) (toHunt s))

end Sys2Proof.Machine
end

