-- ==== Sys2Proof/Machine/Dispatch.lean ====
section
/-! DEFINITION. One arm per operation of opcode_table.json. -/
namespace Sys2Proof.Machine

def exec (i : Instr) (s : State) : Host.Outcome State Fault Refusal :=
  match i with
  | .frameHdr len1 len2 => Sys2Proof.Machine.execFrameHdr len1 len2 s
  | .frameTrl chk => Sys2Proof.Machine.execFrameTrl chk s
  | .seg rsv seq src dst data => Sys2Proof.Machine.execSeg rsv seq src dst data s
  | .segf rsv seq src dst data => Sys2Proof.Machine.execSegf rsv seq src dst data s

end Sys2Proof.Machine
end

