-- ==== Sys2Proof/Machine/Pipeline.lean ====
section
/-! DEFINITION. The dispatch of one input symbol (R80), one rising clock edge (R29 to R32), and where the bytes of a table word are
placed so that the next edge runs them. -/
namespace Sys2Proof.Machine

/-- A byte in HUNT (R81, R82): the shift, then the operation the window holds, if it holds one. -/
def huntByte (b : Byte) (s : State) : Result :=
  match fetchHeader (huntShift b s) with
  | some i => exec i (huntShift b s)
  | none => .next (huntShift b s)

/-- A byte in STOP (R87): the held checksum byte and this byte are the trailer; if they do not match its pattern, the byte is a bad
stop byte (R65). -/
def stopByte (b : Byte) (s : State) : Result :=
  match decode .trailer [s.framer.fchk, b] with
  | .ok i => exec i s
  | .error _ => .next (badStop b s)

/-- A byte, under the phase in force (R80). -/
def consumeByte (b : Byte) (s : State) : Result :=
  match s.framer.fphase with
  | .hunt => huntByte b s
  | .ctrl => .next (ctrlByte b s)
  | .addr => .next (addrByte b s)
  | .payload => payloadByte b s
  | .chk => .next (chkByte b s)
  | .stop => stopByte b s

/-- R5's `step`, by the dispatch of R80: the effect of one symbol, the events of the step in `events`. In the fatal condition no step
is taken (R19). -/
def consume (x : InSym) (s : State) : Result :=
  if s.fatal ≠ .none then .next (clearEvents s)
  else
    match x with
    | .err => .next (fatalErr (clearEvents s))
    | .eos => .next (fatalEos (clearEvents s))
    | .byte b => consumeByte b (clearEvents s)

/-- One rising clock edge: reset; else a symbol is consumed when it is offered and the block is ready; else nothing but the message
port moves (R29, R31, R32). -/
def edge (p : Pins) (s : State) : Result :=
  if p.rst then .next (resetBlock s)
  else if p.inValid && s.inReady then consume (symbolOf p) s
  else .next (idleEdge p.msgReady s)

/-- The pin sample of the coming edge; past the end of the list the pins are idle (log 1). -/
def nextPins (s : State) : Pins := s.pins.headD {}

/-- The block is ready for the symbols that are offered next: the rest of an instruction's bytes. -/
def offer (syms : List InSym) (s : State) : State :=
  { s with fatal := .none, msg := none, pins := syms.map pinsOf }

/-- A header whose first three bytes are in the window, the fourth offered (log 2). -/
def placeHeader (b0 b1 b2 b3 : Byte) (s : State) : State :=
  offer [.byte b3]
    { s with framer := { s.framer with fphase := .hunt, w1 := b0, w2 := b1, w3 := b2, wcnt := 3 } }

/-- A trailer whose checksum byte is held, the stop byte offered, after an attempt with an empty payload (log 2). -/
def placeTrailer (chk stop : Byte) (s : State) : State :=
  offer [.byte stop]
    { s with framer := { s.framer with fphase := .stop, wcnt := 0, flen := 2#8, fidx := 0#8, fchk := chk } }

/-- A segment whose bytes are in the frame buffer of a frame with CTRL = ADDR = 0 and the right checksum, its stop byte offered: the
segment runs in the step of the stop byte (R53, R100; log 10). -/
def placeSegment (ci src dst : Byte) (s : State) : State :=
  offer [.byte Config.STOP]
    { s with framer :=
        { s.framer with fphase := .stop, wcnt := 0, flen := 5#8, fctrl := 0#8, faddr := 0#8
                        fidx := 3#8, fsum := ci + src + dst, fchk := ci + src + dst
                        fbuf := ((s.framer.fbuf.write 0 ci).write 1 src).write 2 dst } }

/-- The bytes of a table word, placed so that the next edge completes them. -/
def placeWord (nbits w : Nat) (s : State) : State :=
  match tableBytes nbits w with
  | some (.header, [b0, b1, b2, b3]) => placeHeader b0 b1 b2 b3 s
  | some (.trailer, [chk, stop]) => placeTrailer chk stop s
  | some (.segment, [ci, src, dst]) => placeSegment ci src dst s
  | _ => s

end Sys2Proof.Machine
end

