-- ==== Sys2Proof/Machine/Step.lean ====
section
/-! DEFINITION. One step of the machine: one rising clock edge. -/
namespace Sys2Proof.Machine

/-- One rising clock edge, with the input pins of that edge (R29 to R32; log 1). -/
def step (s : State) : Host.Outcome State Fault Refusal := edge (nextPins s) (takePins s)

/-- The state with a word of opcode_table.json placed so that the very next step runs it (log 2). -/
def State.withFetchWord (s : State) (nbits w : Nat) : State := placeWord nbits w s

end Sys2Proof.Machine
end

