-- ==== Sys2Proof/Machine/Downstream.lean ====
section
/-! DEFINITION. The consumer of the block's messages: the Envelope view and the Decryptor (42_downstream.md). They are outside the block
(R3) and take no step; each is a pure function of the buffer of one emitted message (log 15). -/
namespace Sys2Proof.Downstream

/-- A structural error of the envelope (R129). -/
inductive EnvelopeError where
  /-- an offset that an accessor needs is past the end of the buffer -/
  | pastEnd (offset : Nat)
  /-- the size field's value is below 5, so the ciphertext has no length -/
  | sizeBelowFive (value : Nat)
  deriving DecidableEq, Repr

/-- The ways `decrypt` fails (R129, R131, R132). -/
inductive DecryptError where
  | unsupportedSecurityMode (got : Byte)
  | nonceLength (got : Nat)
  | envelope (e : EnvelopeError)
  deriving DecidableEq, Repr

/-- One byte of the buffer, bounds checked (R129). -/
def byteAt (B : List Byte) (off : Nat) : Except EnvelopeError Byte :=
  match B[off]? with
  | some b => .ok b
  | none => .error (.pastEnd off)

/-- `n` bytes from an offset, bounds checked: the first missing offset is reported; no byte needs no offset (R129). -/
def slice (B : List Byte) (off n : Nat) : Except EnvelopeError (List Byte) :=
  if n = 0 ∨ off + n ≤ B.length then .ok ((B.drop off).take n) else .error (.pastEnd (max off B.length))

/-- A big-endian unsigned integer (R125, R127). -/
def bigEndian (bs : List Byte) : Nat := bs.foldl (fun acc b => acc * 256 + b.toNat) 0

/-- The ciphering service, `B[0]`, opaque (R122). -/
def cipheringService (B : List Byte) : Except EnvelopeError Byte := byteAt B 0

/-- The system-title length `N`, `B[1]` (R123). -/
def titleLength (B : List Byte) : Except EnvelopeError Nat := (byteAt B 1).map BitVec.toNat

/-- The system title, `N` bytes from offset 2 (R123). -/
def systemTitle (B : List Byte) : Except EnvelopeError (List Byte) := do
  let n ← titleLength B
  slice B 2 n

/-- The size field at an offset: the count `C` of further bytes, and the value `V` (R125). -/
def sizeFieldAt (B : List Byte) (off : Nat) : Except EnvelopeError (Nat × Nat) := do
  let b ← byteAt B off
  if b.toNat ≤ 0x7F then return (0, b.toNat)
  else
    let c := (b &&& 0x7F#8).toNat
    let bs ← slice B (off + 1) c
    return (c, bigEndian bs)

/-- The size field of the envelope, at offset `2 + N` (R121, R125). -/
def sizeField (B : List Byte) : Except EnvelopeError (Nat × Nat) := do
  let n ← titleLength B
  sizeFieldAt B (2 + n)

/-- The offset `S = 2 + N + 1 + C` of the security-control byte (R121). -/
def securityOffset (B : List Byte) : Except EnvelopeError Nat := do
  let n ← titleLength B
  let size ← sizeField B
  return 2 + n + 1 + size.1

/-- The security-control byte, `B[S]` (R126). -/
def securityControl (B : List Byte) : Except EnvelopeError Byte := do
  let s ← securityOffset B
  byteAt B s

/-- The four bytes of the frame counter, from `S + 1`, in buffer order (R127). -/
def counterBytes (B : List Byte) : Except EnvelopeError (List Byte) := do
  let s ← securityOffset B
  slice B (s + 1) 4

/-- The frame counter, big-endian unsigned 32-bit (R127). -/
def frameCounter (B : List Byte) : Except EnvelopeError Nat := (counterBytes B).map bigEndian

/-- The ciphertext, `V - 5` bytes from `S + 5` (R121, R128, R129). -/
def ciphertext (B : List Byte) : Except EnvelopeError (List Byte) := do
  let s ← securityOffset B
  let size ← sizeField B
  if size.2 < 5 then .error (.sizeBelowFive size.2) else slice B (s + 5) (size.2 - 5)

/-- The one supported value of the security-control byte (R126, R131). -/
def ENCRYPTION_ONLY : Byte := 0b00100000#8

/-- The associated data, the single byte 0x30 (R133). -/
def ASSOCIATED_DATA : List Byte := [0x30#8]

/-- An envelope accessor inside `decrypt`: its range error goes to the caller (R129). -/
def access {α : Type} (x : Except EnvelopeError α) : Except DecryptError α :=
  match x with
  | .ok a => .ok a
  | .error e => .error (.envelope e)

/-- The nonce, `system_title || frame_counter` (R132), refused when it has not the AEAD's nonce length (U26). -/
def nonce (B : List Byte) : Except DecryptError (List Byte) := do
  let title ← access (systemTitle B)
  let counter ← access (counterBytes B)
  if (title ++ counter).length = Config.AEAD_NONCE_LEN then return title ++ counter
  else .error (.nonceLength (title ++ counter).length)

/-- `decrypt(message)` (R131 to R135): the security mode is checked before any key material is touched; the received ciphertext, tag
included, is fed to the sealing operation, which the spec does not define (`Config.aeadSeal`, a free value; log 15). -/
def decrypt (key : List Byte) (m : LogicalMessage) : Except DecryptError (List Byte) := do
  let control ← access (securityControl m.buf)
  if control ≠ ENCRYPTION_ONLY then .error (.unsupportedSecurityMode control)
  else
    let n ← nonce m.buf
    let c ← access (ciphertext m.buf)
    return Config.aeadSeal key n ASSOCIATED_DATA c

end Sys2Proof.Downstream
end

