-- ==== Sys2Proof/Safety.lean ====
section
/-! DEFINITION. What counts as a safe run: the invariants of R34, and the runs that statements speak of. -/
namespace Sys2Proof.Machine

/-- The invariants of R34 (its parts are named), with what the model's own data needs beside them. -/
structure Inv (s : State) : Prop where
  /-- R34 (a) -/
  idleEmpty : s.reasm.rstate = .idle → s.reasm.rexp = 0#4 ∧ s.mlen = 0
  /-- R34 (b), in HUNT -/
  huntCount : s.framer.fphase = .hunt → s.framer.wcnt ≤ 4
  /-- R34 (b), in a frame attempt -/
  attemptLen : s.framer.fphase ≠ .hunt → s.framer.wcnt = 0 ∧ 2 ≤ s.framer.flen.toNat
  /-- R17: no payload byte is stored yet -/
  bodyStart : s.framer.fphase = .ctrl ∨ s.framer.fphase = .addr → s.framer.fidx = 0#8
  /-- R34 (c), in PAYLOAD -/
  payloadIndex : s.framer.fphase = .payload → 2 < s.framer.flen.toNat ∧ s.framer.fidx.toNat < payloadLen s
  /-- R34 (c), in CHK and STOP -/
  trailerIndex : s.framer.fphase = .chk ∨ s.framer.fphase = .stop → s.framer.fidx.toNat = payloadLen s
  /-- R34 (d), in ADDR -/
  addrSum : s.framer.fphase = .addr → s.framer.fsum = s.framer.fctrl
  /-- R34 (d), from PAYLOAD on: control byte, address byte and the payload bytes stored so far -/
  bodySum : s.framer.fphase = .payload ∨ s.framer.fphase = .chk ∨ s.framer.fphase = .stop →
    s.framer.fsum = frameChecksum s.framer.fctrl s.framer.faddr (s.framer.fbuf.prefixBytes s.framer.fidx.toNat)
  /-- the frame buffer is in canonical form, inside its 253 offsets (R18) -/
  bufferForm : Memory.wf s.framer.fbuf = true ∧ Memory.inRange s.framer.fbuf = true
  /-- R108: the message in progress fits -/
  messageFits : exceedsCap s.params s.mlen = false
  /-- R108: a waiting message fits -/
  waitingFits : ∀ m, s.msg = some m → exceedsCap s.params m.buf.length = false
  /-- C8: no message waits after a fatal symbol -/
  fatalNoMessage : s.fatal ≠ .none → s.msg = none

/-- The block's own registers agree: what the next symbols meet (R10). -/
def sameBlock (s t : State) : Prop := s.framer = t.framer ∧ s.reasm = t.reasm ∧ s.fatal = t.fatal

/-- R5: the block on a list of input symbols, with the concatenation of the event lists of its steps; `none` if a step stops. -/
def runSymbols : List InSym → State → Option (State × List OutEvent)
  | [], s => some (s, [])
  | x :: xs, s =>
    match consume x s with
    | .next t =>
      match runSymbols xs t with
      | some (u, es) => some (u, t.events ++ es)
      | none => none
    | .fault _ => none
    | .refused _ => none

/-- The symbol consumed at the next edge, if one is (R29). -/
def consumedNext (s : State) : List InSym :=
  if (nextPins s).rst then []
  else if (nextPins s).inValid && s.inReady then [symbolOf (nextPins s)] else []

/-- What `n` steps leave: the last state, the events of the edges in order, and the symbols consumed in order. -/
structure EdgeTrace where
  final : State
  events : List OutEvent
  consumed : List InSym
  deriving DecidableEq, Repr

/-- `n` clock edges (R29 to R32), or `none` if one stops. -/
def runEdges : Nat → State → Option EdgeTrace
  | 0, s => some ⟨s, [], []⟩
  | n + 1, s =>
    match step s with
    | .next t =>
      match runEdges n t with
      | some tr => some ⟨tr.final, t.events ++ tr.events, consumedNext s ++ tr.consumed⟩
      | none => none
    | .fault _ => none
    | .refused _ => none

/-- The payloads of consecutive valid frames, delivered in order (R100), or `none` if one stops. -/
def deliverAll : List (List Byte) → State → Option State
  | [], s => some s
  | p :: ps, s =>
    match deliver p s with
    | .next t => deliverAll ps t
    | .fault _ => none
    | .refused _ => none

/-- The payloads of a message cut into segments `(src, dst, data)`, the first with sequence number `seq`, numbered modulo 16, the last with
the finish flag (R109, `SEGMENT` of R74). -/
def messagePayloads (seq : Seq) : List (Byte × Byte × List Byte) → List (List Byte)
  | [] => []
  | [g] => [segmentBytes seq true g.1 g.2.1 g.2.2]
  | g :: h :: gs => segmentBytes seq false g.1 g.2.1 g.2.2 :: messagePayloads (seq + 1#4) (h :: gs)

/-- The bytes of a stream as symbols. -/
def byteSyms (bs : List Byte) : List InSym := bs.map .byte

/-- The framer hunts with an empty window and nothing has failed (R89). -/
def betweenFrames (s : State) : Prop := s.framer.fphase = .hunt ∧ s.framer.wcnt = 0 ∧ s.fatal = .none

/-- After the bytes `pre` the frame attempt takes exactly the bytes `body`: it is over, the framer hunting with an empty window, after all of them, and
still going on, without an event, after each shorter prefix (R91). -/
def consumesAttempt (pre body : List Byte) (s : State) : Prop :=
  (∃ u es, runSymbols (byteSyms (pre ++ body)) s = some (u, es) ∧ betweenFrames u) ∧
  ∀ k, k < body.length → ∃ u, runSymbols (byteSyms (pre ++ body.take k)) s = some (u, []) ∧ u.framer.fphase ≠ .hunt

/-- The reassembler's registers are those after reset, up to the ones no rule reads before writing (R171). -/
def betweenMessages (s : State) : Prop :=
  s.reasm.rstate = .idle ∧ s.reasm.rexp = 0#4 ∧ s.reasm.mbuf = []

/-- The size field cannot be read, for this reason, so no accessor of a field behind it answers (R129). -/
def sizeFieldUnreadable (e : Downstream.EnvelopeError) (B : List Byte) : Prop :=
  Downstream.sizeField B = .error e ∧ Downstream.securityControl B = .error e ∧ Downstream.counterBytes B = .error e ∧
  Downstream.frameCounter B = .error e ∧ Downstream.ciphertext B = .error e

end Sys2Proof.Machine
end

