-- ==== Sys2Proof/Certificates/Slice0/Obligations.lean ====
section
/-! DEFINITION. The statements for the provers, taken from the numbered rules of spec/. -/

open Sys2Proof Sys2Proof.Machine

/-! ## Encodings -/

/-- R62, R65, R68, R69: words written out from the encodings decode to the operations they stand for.
MODEL'S CHOICE (log 9): `68 09 0A 68`, which by R62 and R71 is no header, decodes by its pattern alone and is turned away by the meaning.
MODEL'S CHOICE (log 13): an 8-bit word is a segment with SRC = DST = 0 and no data. -/
def Obligations.DecodesWrittenOutWords : Prop :=
  decodeTableWord 32 0x68090968 = some (.frameHdr 0x09#8 0x09#8) ∧
  decodeTableWord 32 0x68090A68 = some (.frameHdr 0x09#8 0x0A#8) ∧
  decodeTableWord 32 0x67090968 = none ∧
  decodeTableWord 16 0x0216 = some (.frameTrl 0x02#8) ∧
  decodeTableWord 16 0x0217 = none ∧
  decodeTableWord 8 0x05 = some (.seg 0#3 5#4 0#8 0#8 []) ∧
  decodeTableWord 8 0xF0 = some (.segf 7#3 0#4 0#8 0#8 []) ∧
  decode .segment [0x11#8, 0xAA#8, 0xBB#8, 0x44#8, 0x55#8] = .ok (.segf 0#3 1#4 0xAA#8 0xBB#8 [0x44#8, 0x55#8])

/-- R62, R65, R66, R69: decoding an encoded operation gives it back, with every operand, and a byte string that decodes is the
encoding of what it decodes to. -/
def Obligations.DecodeAndEncodeAgree : Prop :=
  (∀ i : Instr, decode i.slot (encode i) = .ok i) ∧
  (∀ (slot : Slot) (bytes : List Byte) (i : Instr), decode slot bytes = .ok i → i.slot = slot ∧ encode i = bytes)

/-- R65, R66, R107: which byte strings decode as a trailer and as a segment, and the name a rejected one gets, for every byte string and every slot.
MODEL'S CHOICE (log 9): four bytes decode as a header by their pattern alone (R62 adds equal lengths of at least 2, which the meaning tests), and the names
`badStart1`, `badStart2`, `wrongSize` and their order. -/
def Obligations.DecoderAcceptsExactlyThePatterns : Prop :=
  (∀ a b c d : Byte, (∃ i, decode .header [a, b, c, d] = .ok i) ↔ a = 0x68#8 ∧ d = 0x68#8) ∧
  (∀ a b c d : Byte, a ≠ 0x68#8 → decode .header [a, b, c, d] = .error (.badStart1 a)) ∧
  (∀ b c d : Byte, d ≠ 0x68#8 → decode .header [0x68#8, b, c, d] = .error (.badStart2 d)) ∧
  (∀ p : List Byte, p.length ≠ 4 → decode .header p = .error (.wrongSize p.length)) ∧
  (∀ chk b : Byte, (∃ i, decode .trailer [chk, b] = .ok i) ↔ b = 0x16#8) ∧
  (∀ chk b : Byte, b ≠ 0x16#8 → decode .trailer [chk, b] = .error (.badStop b)) ∧
  (∀ p : List Byte, p.length ≠ 2 → decode .trailer p = .error (.wrongSize p.length)) ∧
  (∀ p : List Byte, (∃ i, decode .segment p = .ok i) ↔ 3 ≤ p.length) ∧
  (∀ p : List Byte, p.length < 3 → ∃ n : Fin 3, n.val = p.length ∧ decode .segment p = .error (.runt n))

/-- R68, R69: a payload of at least three bytes is SEG or SEGF by mask 0x10 of its first byte, with sequence number CI & 0x0F. -/
def Obligations.ControlInfoSelectsTheSegmentOperation : Prop :=
  ∀ (ci src dst : Byte) (data : List Byte), ∃ (rsv : BitVec 3) (seq : Seq),
    decode .segment (ci :: src :: dst :: data) =
        .ok (if ci &&& 0x10#8 = 0x10#8 then .segf rsv seq src dst data else .seg rsv seq src dst data) ∧
      seq.setWidth 8 = ci &&& 0x0F#8 ∧ rsv.toNat = ci.toNat / 32

/-- R70: two CONTROL-INFO bytes that differ only in bits 7:5 have the same effect. -/
def Obligations.ReservedControlInfoBitsAreIgnored : Prop :=
  ∀ (ci ci' src dst : Byte) (data : List Byte) (s : State),
    (∀ k, k < 5 → ci.getLsbD k = ci'.getLsbD k) →
      deliver (ci :: src :: dst :: data) s = deliver (ci' :: src :: dst :: data) s

/-! ## The step and the decoded instruction -/

/-- R29, R80, R82, R87, R100, R101: at an edge that consumes a byte, the operation that byte completes is run: a header by the window after the
shift, a trailer by the held checksum byte and the byte, a segment by the delivery inside the trailer. MODEL'S CHOICE (logs 1, 8, 11): the pin sample, the counter
and the event list around exec. -/
def Obligations.StepRunsTheDecodedInstruction : Prop :=
  (∀ (s : State) (p : Pins) (rest : List Pins) (b : Byte) (i : Instr),
    s.pins = p :: rest → p.rst = false → p.inValid = true → symbolOf p = .byte b → s.fatal = .none → s.msg = none →
    s.framer.fphase = .hunt → 3 ≤ s.framer.wcnt →
    decode .header [s.framer.w1, s.framer.w2, s.framer.w3, b] = .ok i →
      step s = exec i (huntShift b { s with events := [], pins := rest, freeIdx := s.freeIdx + 1 })) ∧
  (∀ (s : State) (p : Pins) (rest : List Pins) (b : Byte) (i : Instr),
    s.pins = p :: rest → p.rst = false → p.inValid = true → symbolOf p = .byte b → s.fatal = .none → s.msg = none →
    s.framer.fphase = .stop → decode .trailer [s.framer.fchk, b] = .ok i →
      step s = exec i { s with events := [], pins := rest, freeIdx := s.freeIdx + 1 }) ∧
  (∀ (chk : Byte) (s : State) (i : Instr),
    chk = s.framer.fsum → decode .segment (linkFrame chk s).payload = .ok i →
      exec (.frameTrl chk) s = exec i (raise (.frameOk (linkFrame chk s)) (toHunt s)))

/-- R29: an edge with `rst` = 0, `in_valid` = 1 and `in_ready` = 1 consumes the symbol, ERR before EOS before a byte, and `in_ready` is 1 exactly
when nothing has failed and no message waits. -/
def Obligations.EdgeConsumesTheOfferedSymbol : Prop :=
  (∀ (s : State) (p : Pins) (rest : List Pins), s.pins = p :: rest → p.rst = false → p.inValid = true →
    s.inReady = true →
      step s = consume (if p.inErr then .err else if p.inEos then .eos else .byte p.inData)
        { s with pins := rest, freeIdx := s.freeIdx + 1 }) ∧
  (∀ s : State, s.inReady = true ↔ s.fatal = .none ∧ s.msg = none)

/-- R29: with `in_valid` = 0 nothing changes but the event outputs, which show no event, and a message the consumer takes. -/
def Obligations.NothingChangesWithoutAValidSymbol : Prop :=
  ∀ (s : State), (nextPins s).rst = false → (nextPins s).inValid = false →
    ∃ t, step s = .next t ∧ sameBlock t s ∧ t.frm = s.frm ∧ t.params = s.params ∧ t.events = [] ∧
      t.msg = (if (nextPins s).msgReady then none else s.msg)

/-! ## The framer -/

/-- R81, R82: a byte in HUNT slides the window by one byte; then, in the same step, the new window is tested: if it is full and holds a header with
two equal lengths of at least 2, a frame attempt of that length starts and the window is emptied; if not, nothing else happens. -/
def Obligations.HuntedByteIsShiftedAndTested : Prop :=
  ∀ (s : State) (b : Byte), s.fatal = .none → s.framer.fphase = .hunt →
    ((3 ≤ s.framer.wcnt ∧ s.framer.w1 = 0x68#8 ∧ b = 0x68#8 ∧ s.framer.w2 = s.framer.w3 ∧ 2 ≤ s.framer.w2.toNat) →
      consume (.byte b) s = .next
        { s with
          events := []
          framer :=
            { s.framer with
              w0 := s.framer.w1, w1 := s.framer.w2, w2 := s.framer.w3, w3 := b, wcnt := 0
              flen := s.framer.w2, fsum := 0#8, fidx := 0#8, fphase := .ctrl } }) ∧
    (¬ (3 ≤ s.framer.wcnt ∧ s.framer.w1 = 0x68#8 ∧ b = 0x68#8 ∧ s.framer.w2 = s.framer.w3 ∧ 2 ≤ s.framer.w2.toNat) →
      consume (.byte b) s = .next
        { s with
          events := []
          framer :=
            { s.framer with
              w0 := s.framer.w1, w1 := s.framer.w2, w2 := s.framer.w3, w3 := b, wcnt := min (s.framer.wcnt + 1) 4 } })

/-- R82: FRAME.HDR with two equal lengths of at least 2 completes: the new values of `flen`, `fsum`, `fidx`, `wcnt`, `fphase`, and nothing else.
MODEL'S CHOICE (log 14): in any phase. -/
def Obligations.FrameHdrRecognisesAHeader : Prop :=
  ∀ (len : Byte) (s : State), 2 ≤ len.toNat →
    exec (.frameHdr len len) s = .next
      { s with framer := { s.framer with flen := len, fsum := 0#8, fidx := 0#8, wcnt := 0, fphase := .ctrl } }

/-- R71: a header candidate with unequal lengths, or with a length below 2, is not a header: no recognition, no event, the window unchanged. -/
def Obligations.FrameHdrCandidateIsNoHeader : Prop :=
  ∀ (len1 len2 : Byte) (s : State), len1 ≠ len2 ∨ len1.toNat < 2 → exec (.frameHdr len1 len2) s = .next s

/-- R83, R84, R86: what a byte of any value does in CTRL, ADDR and CHK, and that it does nothing else. -/
def Obligations.HeaderFieldBytesAreTaken : Prop :=
  ∀ (s : State) (b : Byte), s.fatal = .none →
    (s.framer.fphase = .ctrl → consume (.byte b) s = .next
      { s with events := [], framer := { s.framer with fctrl := b, fsum := b, fphase := .addr } }) ∧
    (s.framer.fphase = .addr → 2 < s.framer.flen.toNat → consume (.byte b) s = .next
      { s with events := [], framer := { s.framer with faddr := b, fsum := s.framer.fsum + b, fphase := .payload } }) ∧
    (s.framer.fphase = .addr → s.framer.flen.toNat = 2 → consume (.byte b) s = .next
      { s with events := [], framer := { s.framer with faddr := b, fsum := s.framer.fsum + b, fphase := .chk } }) ∧
    (s.framer.fphase = .chk → consume (.byte b) s = .next
      { s with events := [], framer := { s.framer with fchk := b, fphase := .stop } })

/-- R85, R46: a byte in PAYLOAD is stored at `fbuf[fidx]`, no other offset changes, `fsum` and `fidx` move on, the phase changes after the last one, and
nothing else changes, the window included (R11). -/
def Obligations.PayloadByteIsStored : Prop :=
  ∀ (s : State) (b : Byte), s.fatal = .none → s.framer.fphase = .payload → Memory.wf s.framer.fbuf = true →
    s.framer.fidx.toNat < 253 →
      ∃ t, consume (.byte b) s = .next t ∧
        t.framer.fbuf.read s.framer.fidx.toNat = b ∧
        (∀ a, a ≠ s.framer.fidx.toNat → t.framer.fbuf.read a = s.framer.fbuf.read a) ∧
        t.framer.fidx.toNat = s.framer.fidx.toNat + 1 ∧
        t = { s with
          events := []
          framer :=
            { s.framer with
              fbuf := t.framer.fbuf
              fsum := s.framer.fsum + b
              fidx := t.framer.fidx
              fphase := if s.framer.fidx.toNat + 1 = s.framer.flen.toNat - 2 then .chk else .payload } }

/-- R85: from a state that meets the invariants, the bytes of the PAYLOAD phase are stored in order, and the phase is left exactly when `flen - 2` are. -/
def Obligations.PayloadPhaseTakesTheDeclaredBytes : Prop :=
  ∀ (s : State) (bs : List Byte), Inv s → s.fatal = .none → s.framer.fphase = .payload →
    s.framer.fidx.toNat + bs.length ≤ s.framer.flen.toNat - 2 →
      ∃ u, runSymbols (byteSyms bs) s = some (u, []) ∧
        u.framer.fidx.toNat = s.framer.fidx.toNat + bs.length ∧
        u.framer.fphase = (if s.framer.fidx.toNat + bs.length = s.framer.flen.toNat - 2 then .chk else .payload) ∧
        u.framer.fbuf.prefixBytes u.framer.fidx.toNat = s.framer.fbuf.prefixBytes s.framer.fidx.toNat ++ bs

/-- MODEL'S CHOICE (log 5): a PAYLOAD step whose `fidx` is no offset of the 253-byte frame buffer of R18 faults. -/
def Obligations.PayloadByteOutsideTheBufferFaults : Prop :=
  ∀ (s : State) (b : Byte), s.fatal = .none → s.framer.fphase = .payload → 253 ≤ s.framer.fidx.toNat →
    consume (.byte b) s = .fault (.frameBufferRange s.framer.fidx.toNat)

/-- R87, R88, R142, R143: the byte at the stop position ends the attempt with exactly one verdict, the stop byte checked before the checksum; a valid
frame is delivered in the same step. -/
def Obligations.TrailerGivesOneVerdict : Prop :=
  ∀ (s : State) (b : Byte), s.fatal = .none → s.framer.fphase = .stop →
    (b ≠ 0x16#8 → consume (.byte b) s = .next
      { s with events := [.badStop b], framer := { s.framer with fphase := .hunt } }) ∧
    (b = 0x16#8 → s.framer.fchk ≠ s.framer.fsum → consume (.byte b) s = .next
      { s with events := [.badChecksum s.framer.fchk s.framer.fsum], framer := { s.framer with fphase := .hunt } }) ∧
    (b = 0x16#8 → s.framer.fchk = s.framer.fsum → ∃ f : LinkFrame,
      f.len = s.framer.flen ∧ f.ctrl = s.framer.fctrl ∧ f.addr = s.framer.faddr ∧ f.chk = s.framer.fchk ∧
      f.payload = (List.range (s.framer.flen.toNat - 2)).map s.framer.fbuf.read ∧
      consume (.byte b) s = deliver f.payload
        { s with
          events := [.frameOk f], frm := ⟨f.len, f.ctrl, f.addr, f.chk⟩, framer := { s.framer with fphase := .hunt } })

/-- R87: FRAME.TRL completes in every state, ends the attempt and changes no other framer register and no byte of the frame buffer; on a checksum
mismatch nothing else changes but the event, on a match `FRAME_OK` comes first. MODEL'S CHOICE (log 14): in any phase. -/
def Obligations.FrameTrlCompletes : Prop :=
  ∀ (chk : Byte) (s : State), ∃ t, exec (.frameTrl chk) s = .next t ∧
    t.framer = { s.framer with fphase := .hunt } ∧ (∀ a, t.framer.fbuf.read a = s.framer.fbuf.read a) ∧
    t.fatal = s.fatal ∧ t.params = s.params ∧ t.pins = s.pins ∧ t.freeIdx = s.freeIdx ∧
    (chk ≠ s.framer.fsum → t.reasm = s.reasm ∧ t.frm = s.frm ∧ t.msg = s.msg ∧
      t.events = s.events ++ [.badChecksum chk s.framer.fsum]) ∧
    (chk = s.framer.fsum → t.frm = ⟨s.framer.flen, s.framer.fctrl, s.framer.faddr, chk⟩ ∧
      ∃ tail, tail.length ≤ 1 ∧ t.events = s.events ++ .frameOk (linkFrame chk s) :: tail)

/-- R88: every emitted link frame carries the registers of the attempt and the `flen - 2` bytes of the frame buffer, in order, and meets SM's two
invariants: the checksum is the sum of control byte, address byte and payload, and the payload is two bytes shorter than the declared length. -/
def Obligations.EmittedFramesMeetTheirInvariants : Prop :=
  ∀ (s t : State) (f : LinkFrame), Inv s → step s = .next t → .frameOk f ∈ t.events →
    f.len = s.framer.flen ∧ f.ctrl = s.framer.fctrl ∧ f.addr = s.framer.faddr ∧ f.chk = s.framer.fchk ∧
    f.payload = (List.range (s.framer.flen.toNat - 2)).map s.framer.fbuf.read ∧
    f.chk = frameChecksum f.ctrl f.addr f.payload ∧ f.payload.length = f.len.toNat - 2 ∧ 2 ≤ f.len.toNat

/-- R89: whatever the verdict, the step of the stop byte leaves the framer hunting with an empty window. -/
def Obligations.AttemptEndsHuntingWithAnEmptyWindow : Prop :=
  ∀ (s : State) (b : Byte), Inv s → s.fatal = .none → s.framer.fphase = .stop →
    ∃ t, consume (.byte b) s = .next t ∧ betweenFrames t

/-- R91, R92 (a): an attempt consumes exactly `flen + 6` bytes, counting its header, whatever the bytes are: the framer is in the attempt, with no event, after
each shorter prefix that holds the header, and hunts with an empty window after the whole. The header may come at an empty window; or after noise, if its
first three bytes do not complete an earlier header; and from CTRL on, however the header was recognised, `flen + 2` bytes remain. -/
def Obligations.AttemptConsumesLenPlusSixBytes : Prop :=
  (∀ (s : State) (len : Byte) (body : List Byte), betweenFrames s → Memory.wf s.framer.fbuf = true → 2 ≤ len.toNat →
    body.length = len.toNat + 2 → consumesAttempt [0x68#8, len, len, 0x68#8] body s) ∧
  (∀ (s v : State) (es : List OutEvent) (len : Byte) (body : List Byte), s.fatal = .none → s.framer.fphase = .hunt →
    Memory.wf s.framer.fbuf = true → 2 ≤ len.toNat →
    runSymbols (byteSyms [0x68#8, len, len]) s = some (v, es) → v.framer.fphase = .hunt →
    body.length = len.toNat + 2 → consumesAttempt [0x68#8, len, len, 0x68#8] body s) ∧
  (∀ (s : State) (body : List Byte), Inv s → s.fatal = .none → s.framer.fphase = .ctrl →
    body.length = s.framer.flen.toNat + 2 → consumesAttempt [] body s)

/-- R74, R92 (a): the bytes of FRAME(c, a, p) produce exactly one FRAME_OK, with these fields, and then what the delivery of the payload produces. -/
def Obligations.FrameBytesProduceExactlyOneFrame : Prop :=
  ∀ (s : State) (c a : Byte) (p : List Byte), betweenFrames s → Memory.wf s.framer.fbuf = true → p.length ≤ 253 →
    ∃ (f : LinkFrame) (v u : State),
      f = ⟨BitVec.ofNat 8 (p.length + 2), c, a, p, frameChecksum c a p⟩ ∧
      v.events = [.frameOk f] ∧ v.reasm = s.reasm ∧ v.params = s.params ∧ betweenFrames v ∧
      deliver p v = .next u ∧ runSymbols (byteSyms (frameBytes c a p)) s = some (u, u.events) ∧ betweenFrames u ∧
      (∀ g, .frameOk g ∈ u.events ↔ g = f) ∧ (u.events.filter (fun e => e.code == 0)).length = 1

/-- R92 (b), R90: one payload bit flipped, the checksum not updated: no frame, one BAD_CHECKSUM with both sums, the reassembler untouched, and the framer ready for a frame that starts right after. -/
def Obligations.FlippedPayloadBitIsRejected : Prop :=
  ∀ (s : State) (c a : Byte) (p : List Byte) (i : Nat) (k : Nat), betweenFrames s → Memory.wf s.framer.fbuf = true →
    p.length ≤ 253 → i < p.length → k < 8 →
      ∃ u, runSymbols
          (byteSyms ([0x68#8, BitVec.ofNat 8 (p.length + 2), BitVec.ofNat 8 (p.length + 2), 0x68#8, c, a]
            ++ p.set i (p.getD i 0#8 ^^^ (1#8 <<< k)) ++ [frameChecksum c a p, 0x16#8])) s =
        some (u, [.badChecksum (frameChecksum c a p) (frameChecksum c a (p.set i (p.getD i 0#8 ^^^ (1#8 <<< k))))]) ∧
      u.reasm = s.reasm ∧ betweenFrames u

/-! ## The reassembler -/

/-- R103: SEG with sequence number 0 in Idle starts a message with its identifiers and its data; 1 is expected next, and nothing else changes. -/
def Obligations.SegStartsAMessage : Prop :=
  ∀ (rsv : BitVec 3) (src dst : Byte) (data : List Byte) (s : State), s.reasm.rstate = .idle →
    (∀ cap, s.params.msgCap = some cap → data.length ≤ cap) →
      exec (.seg rsv 0#4 src dst data) s = .next
        { s with reasm := { rstate := .assembling, rexp := 1#4, msrc := src, mdst := dst, mbuf := data } }

/-- R103, R109: SEG with the expected sequence number while assembling appends its data, and the expected number goes up modulo 16. -/
def Obligations.SegContinuesTheMessage : Prop :=
  ∀ (rsv : BitVec 3) (src dst : Byte) (data : List Byte) (s : State), s.reasm.rstate = .assembling →
    (∀ cap, s.params.msgCap = some cap → s.reasm.mbuf.length + data.length ≤ cap) →
      ∃ t, exec (.seg rsv s.reasm.rexp src dst data) s = .next t ∧
        t.reasm.rexp.toNat = (s.reasm.rexp.toNat + 1) % 16 ∧
        t = { s with reasm := { s.reasm with mbuf := s.reasm.mbuf ++ data, rexp := t.reasm.rexp } }

/-- R104, R105: an accepted SEGF emits the message, its own data included, and returns to Idle; in Idle it is a complete message. -/
def Obligations.SegfEmitsTheMessage : Prop :=
  (∀ (rsv : BitVec 3) (src dst : Byte) (data : List Byte) (s : State), s.reasm.rstate = .idle →
    (∀ cap, s.params.msgCap = some cap → data.length ≤ cap) →
      exec (.segf rsv 0#4 src dst data) s = .next
        { s with
          reasm := { s.reasm with rstate := .idle, rexp := 0#4, mbuf := [] }
          events := s.events ++ [.message ⟨src, dst, data⟩], msg := some ⟨src, dst, data⟩ }) ∧
  (∀ (rsv : BitVec 3) (src dst : Byte) (data : List Byte) (s : State), s.reasm.rstate = .assembling →
    (∀ cap, s.params.msgCap = some cap → s.reasm.mbuf.length + data.length ≤ cap) →
      exec (.segf rsv s.reasm.rexp src dst data) s = .next
        { s with
          reasm := { s.reasm with rstate := .idle, rexp := 0#4, mbuf := [] }
          events := s.events ++ [.message ⟨s.reasm.msrc, s.reasm.mdst, s.reasm.mbuf ++ data⟩]
          msg := some ⟨s.reasm.msrc, s.reasm.mdst, s.reasm.mbuf ++ data⟩ })

/-- R106: a segment, with or without the finish flag, whose number is not the expected one (0 in Idle) raises SEQ_MISMATCH with both numbers, drops
the message in progress and itself, and does nothing else. -/
def Obligations.MismatchDropsTheMessage : Prop :=
  ∀ (rsv : BitVec 3) (seq expect : Seq) (src dst : Byte) (data : List Byte) (s : State),
    expect = (if s.reasm.rstate = .idle then 0#4 else s.reasm.rexp) → seq ≠ expect →
      (exec (.seg rsv seq src dst data) s = .next
        { s with
          reasm := { s.reasm with rstate := .idle, rexp := 0#4, mbuf := [] }
          events := s.events ++ [.seqMismatch seq expect] }) ∧
      exec (.segf rsv seq src dst data) s = exec (.seg rsv seq src dst data) s

/-- R108: an expected segment that would make the message longer than a finite MSG_CAP raises MSG_OVERFLOW, drops the message, emits nothing, even
with the finish flag; with an infinite MSG_CAP no segment raises MSG_OVERFLOW. -/
def Obligations.OverflowDropsTheMessage : Prop :=
  (∀ (rsv : BitVec 3) (seq : Seq) (src dst : Byte) (data : List Byte) (s : State) (cap : Nat), s.params.msgCap = some cap →
    seq = (if s.reasm.rstate = .idle then 0#4 else s.reasm.rexp) →
    ((s.reasm.rstate = .idle ∧ cap < data.length) ∨
      (s.reasm.rstate = .assembling ∧ cap < s.reasm.mbuf.length + data.length)) →
      (exec (.seg rsv seq src dst data) s = .next
        { s with
          reasm := { s.reasm with rstate := .idle, rexp := 0#4, mbuf := [] }
          events := s.events ++ [.msgOverflow] }) ∧
      exec (.segf rsv seq src dst data) s = exec (.seg rsv seq src dst data) s) ∧
  (∀ (i : Instr) (s t : State) (es : List OutEvent), i.slot = .segment → s.params.msgCap = none → exec i s = .next t →
    t.events = s.events ++ es → .msgOverflow ∉ es)

/-- R107: a delivered payload of fewer than three bytes raises RUNT_SEGMENT with its length and is otherwise treated like a mismatch. -/
def Obligations.RuntDropsTheMessage : Prop :=
  ∀ (p : List Byte) (s : State), p.length < 3 → ∃ n : Fin 3, n.val = p.length ∧
    deliver p s = .next
      { s with
        reasm := { s.reasm with rstate := .idle, rexp := 0#4, mbuf := [] }
        events := s.events ++ [.runtSegment n] }

/-- R110: the identifiers of a continuation segment are neither stored nor compared, whatever they are. -/
def Obligations.ContinuationIdentifiersAreIgnored : Prop :=
  ∀ (rsv : BitVec 3) (seq : Seq) (src dst src' dst' : Byte) (data : List Byte) (s : State), s.reasm.rstate = .assembling →
    exec (.seg rsv seq src dst data) s = exec (.seg rsv seq src' dst' data) s ∧
    exec (.segf rsv seq src dst data) s = exec (.segf rsv seq src' dst' data) s ∧
    (∀ t, exec (.seg rsv seq src dst data) s = .next t → t.reasm.msrc = s.reasm.msrc ∧ t.reasm.mdst = s.reasm.mdst) ∧
    (∀ t, exec (.segf rsv seq src dst data) s = .next t → t.reasm.msrc = s.reasm.msrc ∧ t.reasm.mdst = s.reasm.mdst)

/-- R10, R100: what SEG and SEGF leave: every framer register and every byte of the frame buffer, the fatal condition, the `frm_*` registers, and the
message port unless a message is emitted; at most one event is appended. -/
def Obligations.SegmentsLeaveTheFramer : Prop :=
  ∀ (i : Instr) (s t : State), i.slot = .segment → exec i s = .next t →
    t.framer = s.framer ∧ (∀ a, t.framer.fbuf.read a = s.framer.fbuf.read a) ∧ t.fatal = s.fatal ∧ t.frm = s.frm ∧
    t.params = s.params ∧ t.pins = s.pins ∧ t.freeIdx = s.freeIdx ∧
    (∃ es, t.events = s.events ++ es ∧ es.length ≤ 1 ∧ ((∀ m, .message m ∉ es) → t.msg = s.msg))

/-- R112: nothing but a delivery changes the reassembler's registers: a symbol whose step emits no FRAME_OK leaves them. -/
def Obligations.OnlyADeliveryChangesTheReassembler : Prop :=
  ∀ (x : InSym) (s t : State), consume x s = .next t → (∀ f, .frameOk f ∉ t.events) → t.reasm = s.reasm

/-- R105, R109, R113 (a): a message cut into any number of segments, more than 16 included, comes out once, with the identifiers of the first segment
and the data of all in order, and leaves Idle. -/
def Obligations.SegmentedMessageIsReassembled : Prop :=
  ∀ (first : Byte × Byte × List Byte) (more : List (Byte × Byte × List Byte)) (s : State),
    betweenMessages s → s.params.msgCap = none →
      ∃ u, deliverAll (messagePayloads 0#4 (first :: more)) s = some u ∧
        u.events = s.events ++ [.message ⟨first.1, first.2.1, (first :: more).flatMap (fun g => g.2.2)⟩] ∧
        betweenMessages u ∧ u.framer = s.framer

/-! ## Events, fatal conditions, ports -/

/-- R150: the events of one step, in this order: a fatal event alone; or, only in STOP, one framer verdict, and after FRAME_OK at most one event of the reassembler. -/
def Obligations.EventsOfAStepAreOrdered : Prop :=
  ∀ (s t : State), step s = .next t →
    t.events = [] ∨ t.events = [.fatalEos] ∨ t.events = [.fatalErr] ∨
    (s.framer.fphase = .stop ∧
      ((∃ got, t.events = [.badStop got] ∧ got ≠ 0x16#8) ∨
       t.events = [.badChecksum s.framer.fchk s.framer.fsum] ∨
       ∃ f tail, t.events = .frameOk f :: tail ∧
        (tail = [] ∨ (∃ n, tail = [.runtSegment n]) ∨ (∃ g e, tail = [.seqMismatch g e]) ∨ tail = [.msgOverflow] ∨
          ∃ m, tail = [.message m])))

/-- R147, R148: EOS or ERR, in any phase and any reassembler state, raises its event, sets `fatal`, and writes no other register; from then on the
block is not ready, and no symbol has an effect or an event. -/
def Obligations.FatalSymbolsStopTheBlock : Prop :=
  (∀ s : State, s.fatal = .none →
    consume .eos s = .next { s with events := [.fatalEos], fatal := .eos } ∧
    consume .err s = .next { s with events := [.fatalErr], fatal := .err }) ∧
  (∀ (s : State) (x : InSym), s.fatal ≠ .none → s.inReady = false ∧ consume x s = .next { s with events := [] })

/-- R19, R34 (f): after a fatal symbol every edge without reset leaves the block's registers and raises no event. -/
def Obligations.FatalConditionIsSticky : Prop :=
  ∀ s : State, s.fatal ≠ .none → (nextPins s).rst = false →
    ∃ t, step s = .next t ∧ sameBlock t s ∧ t.frm = s.frm ∧ t.params = s.params ∧ t.events = [] ∧ t.inReady = false

/-- R32: while a message waits the block is not ready, takes no step and changes no state; the message goes only at an edge with `msg_ready` = 1. -/
def Obligations.WaitingMessageStallsTheBlock : Prop :=
  ∀ (s : State) (m : LogicalMessage), s.msg = some m → (nextPins s).rst = false →
    s.inReady = false ∧
    ∃ t, step s = .next t ∧ sameBlock t s ∧ t.frm = s.frm ∧ t.events = [] ∧
      t.msg = (if (nextPins s).msgReady then none else some m)

/-- R31: after a step that emits MESSAGE(m) the message port shows exactly m. -/
def Obligations.EmittedMessageIsOnThePort : Prop :=
  ∀ (s t : State) (m : LogicalMessage), step s = .next t → .message m ∈ t.events →
    t.msgValid = true ∧ t.msgSrc = m.src ∧ t.msgDst = m.dst ∧ t.msgLen = m.buf.length ∧
    (∀ raddr (h : raddr < m.buf.length), t.msgRdata raddr = m.buf[raddr])

/-- R30, R141: after an edge without reset each event output is 1 exactly when its event was raised, the info outputs carry the error event's values,
and the `frm_*` registers hold the fields of the latest FRAME_OK. -/
def Obligations.EventPortsShowTheStep : Prop :=
  ∀ (s t : State), step s = .next t → (nextPins s).rst = false →
    (t.evFrameOk = true ↔ ∃ f, .frameOk f ∈ t.events) ∧ (t.evBadStop = true ↔ ∃ g, .badStop g ∈ t.events) ∧
    (t.evBadChk = true ↔ ∃ r c, .badChecksum r c ∈ t.events) ∧
    (t.evSeqMismatch = true ↔ ∃ g e, .seqMismatch g e ∈ t.events) ∧
    (t.evRunt = true ↔ ∃ n, .runtSegment n ∈ t.events) ∧ (t.evOverflow = true ↔ .msgOverflow ∈ t.events) ∧
    (∀ g, .badStop g ∈ t.events → t.evInfoA = g) ∧
    (∀ r c, .badChecksum r c ∈ t.events → t.evInfoA = r ∧ t.evInfoB = c) ∧
    (∀ g e, .seqMismatch g e ∈ t.events → t.evInfoA.toNat = g.toNat ∧ t.evInfoB.toNat = e.toNat) ∧
    (∀ n, .runtSegment n ∈ t.events → t.evInfoA.toNat = n.val) ∧
    (∀ f, .frameOk f ∈ t.events → t.frm = ⟨f.len, f.ctrl, f.addr, f.chk⟩) ∧
    ((∀ f, .frameOk f ∉ t.events) → t.frm = s.frm) ∧
    (t.fatalO.toNat = match t.fatal with
      | .none => 0
      | .eos => 1
      | .err => 2)

/-- R32: for every timing of the pins, without reset, the events of the edges are those of `step` on the sequence of consumed symbols, and the
registers of the block end the same. -/
def Obligations.EdgesRefineTheSymbolSteps : Prop :=
  ∀ (n : Nat) (s : State), Inv s → (∀ p ∈ s.pins, p.rst = false) →
    ∃ tr u, runEdges n s = some tr ∧ runSymbols tr.consumed s = some (u, tr.events) ∧ sameBlock tr.final u ∧
      tr.final.frm = u.frm

/-- R10: neither stage reads the other's registers: from equal framers, what the next symbol does to the framer and to the fatal condition does not
depend on the reassembler. -/
def Obligations.FramerIgnoresTheReassembler : Prop :=
  ∀ (x : InSym) (s s' t t' : State), s.framer = s'.framer → s.fatal = s'.fatal → consume x s = .next t →
    consume x s' = .next t' → t.framer = t'.framer ∧ t.fatal = t'.fatal ∧
      (∀ f, .frameOk f ∈ t.events ↔ .frameOk f ∈ t'.events)

/-! ## Reset and invariants -/

/-- R33, R170: what reset leaves, in the values the spec states. -/
def Obligations.ResetLeavesTheStatedValues : Prop :=
  State.reset.framer.fphase = .hunt ∧ State.reset.framer.wcnt = 0 ∧ State.reset.fatal = .none ∧
  State.reset.reasm.rstate = .idle ∧ State.reset.reasm.rexp = 0#4 ∧ State.reset.reasm.mbuf = [] ∧ State.reset.mlen = 0 ∧
  State.reset.evFrameOk = false ∧ State.reset.evBadStop = false ∧ State.reset.evBadChk = false ∧
  State.reset.evSeqMismatch = false ∧ State.reset.evRunt = false ∧ State.reset.evOverflow = false ∧
  State.reset.msgValid = false ∧ State.reset.fatalO = 0#2

/-- R29, R170: an edge with `rst` = 1, in any state and whatever the other pins, performs the reset and nothing else: the stated values, no symbol
consumed, no event, a waiting message lost. MODEL'S CHOICE (log 12): the parameters and the coming pin samples stay. -/
def Obligations.ResetEdgeResetsTheBlock : Prop :=
  ∀ (s : State) (p : Pins) (rest : List Pins), s.pins = p :: rest → p.rst = true →
    ∃ t, step s = .next t ∧ t.framer.fphase = .hunt ∧ t.framer.wcnt = 0 ∧ t.fatal = .none ∧
      t.reasm.rstate = .idle ∧ t.reasm.rexp = 0#4 ∧ t.reasm.mbuf = [] ∧ t.events = [] ∧ t.msg = none ∧
      t.inReady = true ∧ t.fatalO = 0#2 ∧ t.params = s.params ∧ t.pins = rest

/-- R34: the invariants hold at reset. -/
def Obligations.InvariantsHoldAtReset : Prop := Inv State.reset

/-- R34: every step keeps the invariants. -/
def Obligations.StepKeepsTheInvariants : Prop :=
  ∀ (s t : State), Inv s → step s = .next t → Inv t

/-- R5, R34: from a state that meets the invariants no step stops: `step` is total on them, whatever the pins. -/
def Obligations.NoStepStopsFromTheInvariants : Prop :=
  ∀ s : State, Inv s → ∃ t, step s = .next t

/-- R23: for a finite MSG_CAP the width of `mlen` is the least that holds the capacity, and `mlen` fits in it. -/
def Obligations.MessageLengthFitsItsWidth : Prop :=
  ∀ (s : State) (cap : Nat), Inv s → s.params.msgCap = some cap →
    ∃ w, s.params.mlenWidth = some w ∧ s.mlen ≤ cap ∧ cap < 2 ^ w ∧ s.mlen < 2 ^ w ∧ (∀ v, cap < 2 ^ v → w ≤ v)

/-- R171: resetting the block between two frames, when no message is in progress, changes no later output. -/
def Obligations.ResetBetweenMessagesChangesNoOutput : Prop :=
  ∀ (s : State) (xs : List InSym), Memory.wf s.framer.fbuf = true → betweenFrames s → betweenMessages s →
    ∃ u v es, runSymbols xs s = some (u, es) ∧ runSymbols xs (resetBlock s) = some (v, es)

/-! ## Downstream of the block -/

/-- R125: the size field: a first byte up to 0x7F is the value; otherwise its low seven bits count the bytes of a big-endian value
(outside the block). MODEL'S CHOICE (log 15): a first byte 0x80, which R125 does not settle, has no further byte and the value 0 (U22). -/
def Obligations.SizeFieldIsDecoded : Prop :=
  (∀ (B : List Byte) (off : Nat) (h : off < B.length), B[off].toNat ≤ 0x7F →
    Downstream.sizeFieldAt B off = .ok (0, B[off].toNat)) ∧
  (∀ (pre bs rest : List Byte), bs.length < 128 →
    Downstream.sizeFieldAt (pre ++ BitVec.ofNat 8 (0x80 + bs.length) :: (bs ++ rest)) pre.length =
      .ok (bs.length, ((List.range bs.length).map fun i => (bs.getD i 0#8).toNat * 256 ^ (bs.length - 1 - i)).sum))

/-- R131: a security-control byte other than 0b00100000 fails before any cryptographic work, whatever the key. -/
def Obligations.UnsupportedSecurityModeIsRefused : Prop :=
  ∀ (key : List Byte) (m : LogicalMessage) (control : Byte), Downstream.securityControl m.buf = .ok control →
    control ≠ 0b00100000#8 → Downstream.decrypt key m = .error (.unsupportedSecurityMode control)

/-- R121 to R128, R132 to R134: the fields of an envelope stand where the table puts them, for every title length and for a short and a long size field, and
`decrypt` feeds the ciphertext to the sealing operation with nonce `system_title || frame_counter` and associated data 0x30. MODEL'S CHOICE (log 15): the
sealing operation is a free value, and a title that does not make the nonce 12 bytes long is refused (U26). -/
def Obligations.EnvelopeFieldsStandWhereTheTableSays : Prop :=
  ∀ (service control c0 c1 c2 c3 src dst : Byte) (title size cipher tail key : List Byte) (c : Nat) (B : List Byte),
    title.length < 256 →
    ((c = 0 ∧ cipher.length + 5 ≤ 127 ∧ size = [BitVec.ofNat 8 (cipher.length + 5)]) ∨
      ∃ bs : List Byte, bs.length = c ∧ c < 128 ∧ size = BitVec.ofNat 8 (0x80 + c) :: bs ∧
        ((List.range c).map fun i => (bs.getD i 0#8).toNat * 256 ^ (c - 1 - i)).sum = cipher.length + 5) →
    B = [service, BitVec.ofNat 8 title.length] ++ title ++ size ++ [control, c0, c1, c2, c3] ++ cipher ++ tail →
      Downstream.cipheringService B = .ok service ∧ Downstream.titleLength B = .ok title.length ∧
      Downstream.systemTitle B = .ok title ∧ Downstream.sizeField B = .ok (c, cipher.length + 5) ∧
      Downstream.securityControl B = .ok control ∧ Downstream.counterBytes B = .ok [c0, c1, c2, c3] ∧
      Downstream.frameCounter B = .ok (c0.toNat * 2 ^ 24 + c1.toNat * 2 ^ 16 + c2.toNat * 2 ^ 8 + c3.toNat) ∧
      Downstream.ciphertext B = .ok cipher ∧
      (control = 0x20#8 → title.length = 8 →
        Downstream.decrypt key ⟨src, dst, B⟩ = .ok (Config.aeadSeal key (title ++ [c0, c1, c2, c3]) [0x30#8] cipher)) ∧
      (control = 0x20#8 → title.length ≠ 8 →
        Downstream.decrypt key ⟨src, dst, B⟩ = .error (.nonceLength (title.length + 4)))

/-- R129: every accessor fails with a structural error when an offset it needs is past the end of the buffer, and the ciphertext accessor also when the size
field's value is below 5; `decrypt` hands the error on. `n`, `c` and `v` are the title length, the size field's count and its value, once they can be read.
MODEL'S CHOICE (log 15): the error names an offset, one that is needed and missing, and a ciphertext of no bytes needs none. -/
def Obligations.EnvelopeAccessIsBoundsChecked : Prop :=
  (∀ (B : List Byte) (off : Nat), B.length ≤ off → Downstream.byteAt B off = .error (.pastEnd off)) ∧
  (∀ (B : List Byte) (off n : Nat), 0 < n → B.length < off + n →
    ∃ k, Downstream.slice B off n = .error (.pastEnd k) ∧ off ≤ k ∧ B.length ≤ k ∧ k < off + n) ∧
  (∀ B : List Byte, B.length = 0 → Downstream.cipheringService B = .error (.pastEnd 0)) ∧
  (∀ B : List Byte, B.length ≤ 1 →
    Downstream.titleLength B = .error (.pastEnd 1) ∧ Downstream.systemTitle B = .error (.pastEnd 1) ∧
    sizeFieldUnreadable (.pastEnd 1) B) ∧
  (∀ (B : List Byte) (n : Nat), Downstream.titleLength B = .ok n →
    (B.length < 2 + n → ∃ k, Downstream.systemTitle B = .error (.pastEnd k) ∧ B.length ≤ k ∧ 2 ≤ k ∧ k < 2 + n) ∧
    (B.length ≤ 2 + n → sizeFieldUnreadable (.pastEnd (2 + n)) B) ∧
    (∀ h : 2 + n < B.length, 0x80 ≤ B[2 + n].toNat → B.length < 2 + n + 1 + (B[2 + n].toNat - 0x80) →
      ∃ k, sizeFieldUnreadable (.pastEnd k) B ∧ B.length ≤ k ∧ 2 + n + 1 ≤ k ∧ k < 2 + n + 1 + (B[2 + n].toNat - 0x80))) ∧
  (∀ (B : List Byte) (n c v : Nat), Downstream.titleLength B = .ok n → Downstream.sizeField B = .ok (c, v) →
    (B.length ≤ 2 + n + 1 + c → Downstream.securityControl B = .error (.pastEnd (2 + n + 1 + c))) ∧
    (B.length < 2 + n + 1 + c + 5 → ∃ k, Downstream.counterBytes B = .error (.pastEnd k) ∧
      Downstream.frameCounter B = .error (.pastEnd k) ∧ B.length ≤ k ∧ 2 + n + 1 + c + 1 ≤ k ∧ k < 2 + n + 1 + c + 5) ∧
    (v < 5 → Downstream.ciphertext B = .error (.sizeBelowFive v)) ∧
    (5 < v → B.length < 2 + n + 1 + c + v → ∃ k, Downstream.ciphertext B = .error (.pastEnd k) ∧ B.length ≤ k ∧
      2 + n + 1 + c + 5 ≤ k ∧ k < 2 + n + 1 + c + v)) ∧
  (∀ (B key : List Byte) (src dst : Byte) (e : Downstream.EnvelopeError),
    (Downstream.securityControl B = .error e ∨
      (Downstream.securityControl B = .ok 0x20#8 ∧ Downstream.counterBytes B = .error e) ∨
      (Downstream.securityControl B = .ok 0x20#8 ∧ Downstream.titleLength B = .ok 8 ∧ (∃ w, Downstream.counterBytes B = .ok w) ∧
        Downstream.ciphertext B = .error e)) →
      Downstream.decrypt key ⟨src, dst, B⟩ = .error (.envelope e))
end

