-- ==== Sys2Proof/Laws/Decode.lean ====
section
/-! SUPPORT. The bit fields of CONTROL-INFO, the checksum's sum, and the cases of the decoder. -/
namespace Sys2Proof

@[simp] theorem ciRsv_ciByte (rsv : BitVec 3) (fin : Bool) (seq : Seq) : ciRsv (ciByte rsv fin seq) = rsv := by
  revert rsv fin seq
  decide

@[simp] theorem ciFin_ciByte (rsv : BitVec 3) (fin : Bool) (seq : Seq) : ciFin (ciByte rsv fin seq) = fin := by
  revert rsv fin seq
  decide

@[simp] theorem ciSeq_ciByte (rsv : BitVec 3) (fin : Bool) (seq : Seq) : ciSeq (ciByte rsv fin seq) = seq := by
  revert rsv fin seq
  decide

/-- The three fields make the byte again: no bit of CONTROL-INFO is dropped. -/
theorem ciByte_fields (ci : Byte) : ciByte (ciRsv ci) (ciFin ci) (ciSeq ci) = ci := by
  revert ci
  decide

@[simp] theorem byteSum_append (bs cs : List Byte) : byteSum (bs ++ cs) = byteSum bs + byteSum cs := by
  induction bs with
  | nil => simp [byteSum]
  | cons b bs ih => simp [byteSum, ih, BitVec.add_assoc]

theorem parseSegment_cons (ci src dst : Byte) (data : List Byte) :
    parseSegment (ci :: src :: dst :: data) = .ok ⟨ciRsv ci, ciFin ci, ciSeq ci, src, dst, data⟩ := rfl

/-- A payload parses exactly when it has the three header bytes; otherwise its length is reported (R101, R107). -/
theorem parseSegment_cases (p : List Byte) :
    (∃ ci src dst data, p = ci :: src :: dst :: data) ∨ (∃ n : Fin 3, n.val = p.length ∧ parseSegment p = .error n) := by
  match p with
  | [] => exact .inr ⟨0, rfl, rfl⟩
  | [_] => exact .inr ⟨1, rfl, rfl⟩
  | [_, _] => exact .inr ⟨2, rfl, rfl⟩
  | ci :: src :: dst :: data => exact .inl ⟨ci, src, dst, data, rfl⟩

theorem parseSegment_segmentBytes (seq : Seq) (fin : Bool) (src dst : Byte) (data : List Byte) :
    parseSegment (segmentBytes seq fin src dst data) = .ok ⟨0#3, fin, seq, src, dst, data⟩ := by
  simp [segmentBytes, parseSegment_cons]

end Sys2Proof
end

