-- ==== Sys2Proof/Laws/Downstream.lean ====
section
/-! SUPPORT. What the consumer's bounds-checked reads and its big-endian integer answer. -/
namespace Sys2Proof.Downstream

theorem byteAt_inside {B : List Byte} {off : Nat} (h : off < B.length) : byteAt B off = .ok B[off] := by
  simp [byteAt, h]

theorem byteAt_outside {B : List Byte} {off : Nat} (h : B.length ≤ off) : byteAt B off = .error (.pastEnd off) := by
  simp [byteAt, h]

theorem slice_inside {B : List Byte} {off n : Nat} (h : off + n ≤ B.length) :
    slice B off n = .ok ((B.drop off).take n) := if_pos (.inr h)

theorem slice_outside {B : List Byte} {off n : Nat} (h0 : 0 < n) (h : B.length < off + n) :
    slice B off n = .error (.pastEnd (max off B.length)) := if_neg (by omega)

/-- Bytes that stand in the buffer after a prefix are what a slice at that prefix gives. -/
theorem slice_append (pre bs rest : List Byte) (off n : Nat) (ho : off = pre.length) (hn : n = bs.length) :
    slice (pre ++ (bs ++ rest)) off n = .ok bs := by
  subst ho hn
  rw [slice_inside (by simp)]
  simp

/-- A byte that stands in the buffer after a prefix. -/
theorem byteAt_append (pre : List Byte) (b : Byte) (rest : List Byte) (off : Nat) (ho : off = pre.length) :
    byteAt (pre ++ b :: rest) off = .ok b := by
  subst ho
  simp [byteAt]

theorem bigEndian_from (bs : List Byte) (acc : Nat) :
    bs.foldl (fun acc b => acc * 256 + b.toNat) acc =
      acc * 256 ^ bs.length + ((List.range bs.length).map fun i => (bs.getD i 0#8).toNat * 256 ^ (bs.length - 1 - i)).sum := by
  induction bs generalizing acc with
  | nil => simp
  | cons b bs ih =>
    have hi : ((fun i => (List.getD (b :: bs) i 0#8).toNat * 256 ^ (bs.length - i)) ∘ Nat.succ) =
        fun i => (bs.getD i 0#8).toNat * 256 ^ (bs.length - 1 - i) := by
      funext i
      simp only [Function.comp, Nat.succ_eq_add_one, List.getD_cons_succ]
      congr 2
      omega
    simp only [List.foldl_cons, ih, List.length_cons, List.range_succ_eq_map, List.map_cons, List.sum_cons, List.map_map,
      List.getD_cons_zero, Nat.add_sub_cancel, Nat.sub_zero, Nat.add_mul, pow_succ, hi]
    ring

/-- The big-endian integer of R125 as the sum that rule writes. -/
theorem bigEndian_eq (bs : List Byte) :
    bigEndian bs = ((List.range bs.length).map fun i => (bs.getD i 0#8).toNat * 256 ^ (bs.length - 1 - i)).sum := by
  simp [bigEndian, bigEndian_from]

/-- A first size byte above 0x7F is 0x80 and a count (R125). -/
theorem sizeCount (b : Byte) (h : 0x80 ≤ b.toNat) : (b &&& 0x7F#8).toNat = b.toNat - 0x80 ∧ ¬ b.toNat ≤ 0x7F := by
  revert b
  decide

/-- The size field answers only when its first byte is in the buffer. -/
theorem sizeField_inside {B : List Byte} {n c v : Nat} (hn : titleLength B = .ok n) (h : sizeField B = .ok (c, v)) :
    2 + n < B.length := by
  by_contra hl
  simp [sizeField, hn, sizeFieldAt, byteAt_outside (Nat.le_of_not_lt hl), bind, Except.bind] at h

/-- The offset of the security-control byte, once title length and size field can be read (R121). -/
theorem securityOffset_eq {B : List Byte} {n c v : Nat} (hn : titleLength B = .ok n) (h : sizeField B = .ok (c, v)) :
    securityOffset B = .ok (2 + n + 1 + c) := by
  simp [securityOffset, hn, h, bind, Except.bind, pure, Except.pure]

end Sys2Proof.Downstream
end

