-- ==== Sys2Proof/Laws/Memory.lean ====
section
/-! SUPPORT. The frame buffer: read after write, the canonical form, and the bytes read back in order. -/
namespace Sys2Proof.Machine

theorem Memory.read_write_same (m : Memory) (a : Nat) (b : Byte) (h : Memory.wf m = true) :
    Memory.read (Memory.write m a b) a = b := by
  induction m with
  | nil => by_cases hb : b = fillByte <;> simp [Memory.write, Memory.read, hb]
  | cons c m ih =>
    obtain ⟨k, v⟩ := c
    simp only [Memory.wf, Bool.and_eq_true, bne_iff_ne, ne_eq, List.all_eq_true, decide_eq_true_eq] at h
    obtain ⟨⟨-, hlt⟩, hw⟩ := h
    -- an offset below every listed one reads as the fill byte
    have below : ∀ l : Memory, (∀ c ∈ l, a < c.1) → Memory.read l a = fillByte := by
      intro l hl
      induction l with
      | nil => rfl
      | cons c l ihl =>
        have := hl c (by simp)
        simp only [Memory.read]
        rw [if_neg (by omega), ihl (fun d hd => hl d (by simp [hd]))]
    simp only [Memory.write]
    split
    · rename_i hak
      by_cases hb : b = fillByte
      · rw [if_pos hb, hb]
        exact below _ (by
          intro c hc
          rcases List.mem_cons.mp hc with rfl | hc
          · exact hak
          · have := hlt c hc
            omega)
      · simp [hb, Memory.read]
    · split
      · rename_i _ hak
        by_cases hb : b = fillByte
        · rw [if_pos hb, hb]
          exact below m (fun c hc => hak ▸ hlt c hc)
        · simp [hb, Memory.read]
      · rename_i h1 h2
        simp only [Memory.read]
        rw [if_neg (fun e => h2 e.symm), ih hw]

theorem Memory.read_write_other (m : Memory) (a a' : Nat) (b : Byte) (h : a' ≠ a) :
    Memory.read (Memory.write m a b) a' = Memory.read m a' := by
  induction m with
  | nil => by_cases hb : b = fillByte <;> simp [Memory.write, Memory.read, hb, Ne.symm h]
  | cons c m ih =>
    obtain ⟨k, v⟩ := c
    simp only [Memory.write]
    split
    · by_cases hb : b = fillByte <;> simp [hb, Memory.read, Ne.symm h]
    · split
      · rename_i _ hak
        by_cases hb : b = fillByte <;> simp [hb, Memory.read, ← hak, Ne.symm h]
      · simp only [Memory.read, ih]

/-- The offsets of a written buffer are the old ones and perhaps the written one. -/
theorem Memory.mem_write {m : Memory} {a : Nat} {b : Byte} {c : Host.Cell} (h : c ∈ Memory.write m a b) :
    c.1 = a ∨ c ∈ m := by
  induction m with
  | nil => by_cases hb : b = fillByte <;> simp_all [Memory.write]
  | cons d m ih =>
    obtain ⟨k, v⟩ := d
    simp only [Memory.write] at h
    split at h
    · by_cases hb : b = fillByte
      · rw [if_pos hb] at h; exact .inr h
      · rw [if_neg hb] at h
        rcases List.mem_cons.mp h with rfl | h
        · exact .inl rfl
        · exact .inr h
    · split at h
      · by_cases hb : b = fillByte
        · rw [if_pos hb] at h; exact .inr (List.mem_cons_of_mem _ h)
        · rw [if_neg hb] at h
          rcases List.mem_cons.mp h with rfl | h
          · exact .inl rfl
          · exact .inr (List.mem_cons_of_mem _ h)
      · rcases List.mem_cons.mp h with rfl | h
        · exact .inr List.mem_cons_self
        · exact (ih h).imp_right (List.mem_cons_of_mem _)

/-- A write keeps the canonical form. -/
theorem Memory.wf_write (m : Memory) (a : Nat) (b : Byte) (h : Memory.wf m = true) :
    Memory.wf (Memory.write m a b) = true := by
  induction m with
  | nil => by_cases hb : b = fillByte <;> simp [Memory.write, Memory.wf, hb]
  | cons c m ih =>
    obtain ⟨k, v⟩ := c
    have h0 := h
    simp only [Memory.wf, Bool.and_eq_true, bne_iff_ne, ne_eq, List.all_eq_true, decide_eq_true_eq] at h
    obtain ⟨⟨hv, hlt⟩, hw⟩ := h
    simp only [Memory.write]
    split
    · rename_i hak
      by_cases hb : b = fillByte
      · rw [if_pos hb]; exact h0
      · rw [if_neg hb]
        simp only [Memory.wf, Bool.and_eq_true, bne_iff_ne, ne_eq, List.all_eq_true, decide_eq_true_eq, List.mem_cons, forall_eq_or_imp]
        exact ⟨⟨hb, hak, fun c hc => hak.trans (hlt c hc)⟩, ⟨hv, hlt⟩, hw⟩
    · split
      · rename_i _ hak
        by_cases hb : b = fillByte
        · rw [if_pos hb]; exact hw
        · rw [if_neg hb]
          simp only [Memory.wf, Bool.and_eq_true, bne_iff_ne, ne_eq, List.all_eq_true, decide_eq_true_eq]
          exact ⟨⟨hb, fun c hc => hak ▸ hlt c hc⟩, hw⟩
      · rename_i h1 h2
        simp only [Memory.wf, Bool.and_eq_true, bne_iff_ne, ne_eq, List.all_eq_true, decide_eq_true_eq]
        refine ⟨⟨hv, fun c hc => ?_⟩, ih hw⟩
        rcases Memory.mem_write hc with e | e
        · omega
        · exact hlt c e

/-- A write at an offset of the buffer stays inside the buffer. -/
theorem Memory.inRange_write (m : Memory) (a : Nat) (b : Byte) (h : Memory.inRange m = true)
    (ha : a < Config.PAYLOAD_MAX) : Memory.inRange (Memory.write m a b) = true := by
  simp only [Memory.inRange, List.all_eq_true, decide_eq_true_eq] at h ⊢
  intro c hc
  rcases Memory.mem_write hc with e | e
  · omega
  · exact h c e

theorem Memory.wf_reset : Memory.wf State.reset.framer.fbuf = true := rfl

@[simp] theorem Memory.prefixBytes_length (m : Memory) (n : Nat) : (Memory.prefixBytes m n).length = n := by
  simp [Memory.prefixBytes]

@[simp] theorem Memory.prefixBytes_zero (m : Memory) : Memory.prefixBytes m 0 = [] := rfl

/-- Writing the next payload byte extends the bytes read back by it (R85, R88). -/
theorem Memory.prefixBytes_write (m : Memory) (n : Nat) (b : Byte) (h : Memory.wf m = true) :
    Memory.prefixBytes (Memory.write m n b) (n + 1) = Memory.prefixBytes m n ++ [b] := by
  simp only [Memory.prefixBytes, List.range_succ, List.map_append, List.map_cons, List.map_nil, Memory.read_write_same m n b h]
  congr 1
  apply List.map_congr_left
  intro i hi
  exact Memory.read_write_other m n i b (by have := List.mem_range.mp hi; omega)

/-- A write beyond the bytes read back leaves them. -/
theorem Memory.prefixBytes_write_beyond (m : Memory) (n a : Nat) (b : Byte) (h : n ≤ a) :
    Memory.prefixBytes (Memory.write m a b) n = Memory.prefixBytes m n := by
  apply List.map_congr_left
  intro i hi
  exact Memory.read_write_other m a i b (by have := List.mem_range.mp hi; omega)

/-- The one thing a write to the frame buffer does when it answers a next state (R46). -/
theorem writeFrameBuffer_next {a : Nat} {b : Byte} {s t : State} (h : writeFrameBuffer a b s = .next t) :
    a < Config.PAYLOAD_MAX ∧ t = { s with framer := { s.framer with fbuf := s.framer.fbuf.write a b } } := by
  unfold writeFrameBuffer at h
  split at h
  · rename_i ha
    cases h
    exact ⟨ha, rfl⟩
  · cases h

end Sys2Proof.Machine
end

