-- ==== Sys2Proof/Laws/State.lean ====
section
/-! SUPPORT. One lemma per field per update: what each shared operation leaves of the state, and what it writes. -/
namespace Sys2Proof.Machine

variable (s : State)

@[simp] theorem raise_framer (e : OutEvent) : (raise e s).framer = s.framer := by cases e <;> rfl
@[simp] theorem raise_reasm (e : OutEvent) : (raise e s).reasm = s.reasm := by cases e <;> rfl
@[simp] theorem raise_fatal (e : OutEvent) : (raise e s).fatal = s.fatal := by cases e <;> rfl
@[simp] theorem raise_params (e : OutEvent) : (raise e s).params = s.params := by cases e <;> rfl
@[simp] theorem raise_pins (e : OutEvent) : (raise e s).pins = s.pins := by cases e <;> rfl
@[simp] theorem raise_freeIdx (e : OutEvent) : (raise e s).freeIdx = s.freeIdx := by cases e <;> rfl

@[simp] theorem toIdle_framer : (toIdle s).framer = s.framer := rfl
@[simp] theorem toIdle_fatal : (toIdle s).fatal = s.fatal := rfl
@[simp] theorem toIdle_events : (toIdle s).events = s.events := rfl
@[simp] theorem toIdle_frm : (toIdle s).frm = s.frm := rfl
@[simp] theorem toIdle_msg : (toIdle s).msg = s.msg := rfl
@[simp] theorem toIdle_params : (toIdle s).params = s.params := rfl
@[simp] theorem toIdle_pins : (toIdle s).pins = s.pins := rfl
@[simp] theorem toIdle_freeIdx : (toIdle s).freeIdx = s.freeIdx := rfl

@[simp] theorem dropWith_framer (e : OutEvent) : (dropWith e s).framer = s.framer := by simp [dropWith]
@[simp] theorem dropWith_fatal (e : OutEvent) : (dropWith e s).fatal = s.fatal := by simp [dropWith]
@[simp] theorem dropWith_params (e : OutEvent) : (dropWith e s).params = s.params := by simp [dropWith]
@[simp] theorem dropWith_pins (e : OutEvent) : (dropWith e s).pins = s.pins := by simp [dropWith]
@[simp] theorem dropWith_freeIdx (e : OutEvent) : (dropWith e s).freeIdx = s.freeIdx := by simp [dropWith]

@[simp] theorem toHunt_reasm : (toHunt s).reasm = s.reasm := rfl
@[simp] theorem toHunt_fatal : (toHunt s).fatal = s.fatal := rfl
@[simp] theorem toHunt_events : (toHunt s).events = s.events := rfl
@[simp] theorem toHunt_frm : (toHunt s).frm = s.frm := rfl
@[simp] theorem toHunt_msg : (toHunt s).msg = s.msg := rfl
@[simp] theorem toHunt_params : (toHunt s).params = s.params := rfl
@[simp] theorem toHunt_pins : (toHunt s).pins = s.pins := rfl
@[simp] theorem toHunt_freeIdx : (toHunt s).freeIdx = s.freeIdx := rfl

@[simp] theorem fatalEos_framer : (fatalEos s).framer = s.framer := rfl
@[simp] theorem fatalEos_reasm : (fatalEos s).reasm = s.reasm := rfl
@[simp] theorem fatalEos_frm : (fatalEos s).frm = s.frm := rfl
@[simp] theorem fatalEos_msg : (fatalEos s).msg = s.msg := rfl
@[simp] theorem fatalEos_params : (fatalEos s).params = s.params := rfl
@[simp] theorem fatalEos_pins : (fatalEos s).pins = s.pins := rfl
@[simp] theorem fatalEos_freeIdx : (fatalEos s).freeIdx = s.freeIdx := rfl

@[simp] theorem fatalErr_framer : (fatalErr s).framer = s.framer := rfl
@[simp] theorem fatalErr_reasm : (fatalErr s).reasm = s.reasm := rfl
@[simp] theorem fatalErr_frm : (fatalErr s).frm = s.frm := rfl
@[simp] theorem fatalErr_msg : (fatalErr s).msg = s.msg := rfl
@[simp] theorem fatalErr_params : (fatalErr s).params = s.params := rfl
@[simp] theorem fatalErr_pins : (fatalErr s).pins = s.pins := rfl
@[simp] theorem fatalErr_freeIdx : (fatalErr s).freeIdx = s.freeIdx := rfl

@[simp] theorem clearEvents_framer : (clearEvents s).framer = s.framer := rfl
@[simp] theorem clearEvents_reasm : (clearEvents s).reasm = s.reasm := rfl
@[simp] theorem clearEvents_fatal : (clearEvents s).fatal = s.fatal := rfl
@[simp] theorem clearEvents_frm : (clearEvents s).frm = s.frm := rfl
@[simp] theorem clearEvents_msg : (clearEvents s).msg = s.msg := rfl
@[simp] theorem clearEvents_params : (clearEvents s).params = s.params := rfl
@[simp] theorem clearEvents_pins : (clearEvents s).pins = s.pins := rfl
@[simp] theorem clearEvents_freeIdx : (clearEvents s).freeIdx = s.freeIdx := rfl

@[simp] theorem resetBlock_params : (resetBlock s).params = s.params := rfl
@[simp] theorem resetBlock_pins : (resetBlock s).pins = s.pins := rfl
@[simp] theorem resetBlock_freeIdx : (resetBlock s).freeIdx = s.freeIdx := rfl

@[simp] theorem idleEdge_framer (r : Bool) : (idleEdge r s).framer = s.framer := rfl
@[simp] theorem idleEdge_reasm (r : Bool) : (idleEdge r s).reasm = s.reasm := rfl
@[simp] theorem idleEdge_fatal (r : Bool) : (idleEdge r s).fatal = s.fatal := rfl
@[simp] theorem idleEdge_frm (r : Bool) : (idleEdge r s).frm = s.frm := rfl
@[simp] theorem idleEdge_params (r : Bool) : (idleEdge r s).params = s.params := rfl
@[simp] theorem idleEdge_pins (r : Bool) : (idleEdge r s).pins = s.pins := rfl
@[simp] theorem idleEdge_freeIdx (r : Bool) : (idleEdge r s).freeIdx = s.freeIdx := rfl

@[simp] theorem takePins_framer : (takePins s).framer = s.framer := rfl
@[simp] theorem takePins_reasm : (takePins s).reasm = s.reasm := rfl
@[simp] theorem takePins_fatal : (takePins s).fatal = s.fatal := rfl
@[simp] theorem takePins_events : (takePins s).events = s.events := rfl
@[simp] theorem takePins_frm : (takePins s).frm = s.frm := rfl
@[simp] theorem takePins_msg : (takePins s).msg = s.msg := rfl
@[simp] theorem takePins_params : (takePins s).params = s.params := rfl

@[simp] theorem startMessage_framer (src dst : Byte) (data : List Byte) : (startMessage src dst data s).framer = s.framer := rfl
@[simp] theorem startMessage_fatal (src dst : Byte) (data : List Byte) : (startMessage src dst data s).fatal = s.fatal := rfl
@[simp] theorem startMessage_events (src dst : Byte) (data : List Byte) : (startMessage src dst data s).events = s.events := rfl
@[simp] theorem startMessage_frm (src dst : Byte) (data : List Byte) : (startMessage src dst data s).frm = s.frm := rfl
@[simp] theorem startMessage_msg (src dst : Byte) (data : List Byte) : (startMessage src dst data s).msg = s.msg := rfl
@[simp] theorem startMessage_params (src dst : Byte) (data : List Byte) : (startMessage src dst data s).params = s.params := rfl
@[simp] theorem startMessage_pins (src dst : Byte) (data : List Byte) : (startMessage src dst data s).pins = s.pins := rfl
@[simp] theorem startMessage_freeIdx (src dst : Byte) (data : List Byte) : (startMessage src dst data s).freeIdx = s.freeIdx := rfl

@[simp] theorem appendSegment_framer (data : List Byte) : (appendSegment data s).framer = s.framer := rfl
@[simp] theorem appendSegment_fatal (data : List Byte) : (appendSegment data s).fatal = s.fatal := rfl
@[simp] theorem appendSegment_events (data : List Byte) : (appendSegment data s).events = s.events := rfl
@[simp] theorem appendSegment_frm (data : List Byte) : (appendSegment data s).frm = s.frm := rfl
@[simp] theorem appendSegment_msg (data : List Byte) : (appendSegment data s).msg = s.msg := rfl
@[simp] theorem appendSegment_params (data : List Byte) : (appendSegment data s).params = s.params := rfl
@[simp] theorem appendSegment_pins (data : List Byte) : (appendSegment data s).pins = s.pins := rfl
@[simp] theorem appendSegment_freeIdx (data : List Byte) : (appendSegment data s).freeIdx = s.freeIdx := rfl

@[simp] theorem huntShift_reasm (b : Byte) : (huntShift b s).reasm = s.reasm := rfl
@[simp] theorem huntShift_fatal (b : Byte) : (huntShift b s).fatal = s.fatal := rfl
@[simp] theorem huntShift_events (b : Byte) : (huntShift b s).events = s.events := rfl
@[simp] theorem huntShift_frm (b : Byte) : (huntShift b s).frm = s.frm := rfl
@[simp] theorem huntShift_msg (b : Byte) : (huntShift b s).msg = s.msg := rfl
@[simp] theorem huntShift_params (b : Byte) : (huntShift b s).params = s.params := rfl
@[simp] theorem huntShift_pins (b : Byte) : (huntShift b s).pins = s.pins := rfl
@[simp] theorem huntShift_freeIdx (b : Byte) : (huntShift b s).freeIdx = s.freeIdx := rfl

@[simp] theorem beginAttempt_reasm (len : Byte) : (beginAttempt len s).reasm = s.reasm := rfl
@[simp] theorem beginAttempt_fatal (len : Byte) : (beginAttempt len s).fatal = s.fatal := rfl
@[simp] theorem beginAttempt_events (len : Byte) : (beginAttempt len s).events = s.events := rfl
@[simp] theorem beginAttempt_frm (len : Byte) : (beginAttempt len s).frm = s.frm := rfl
@[simp] theorem beginAttempt_msg (len : Byte) : (beginAttempt len s).msg = s.msg := rfl
@[simp] theorem beginAttempt_params (len : Byte) : (beginAttempt len s).params = s.params := rfl
@[simp] theorem beginAttempt_pins (len : Byte) : (beginAttempt len s).pins = s.pins := rfl
@[simp] theorem beginAttempt_freeIdx (len : Byte) : (beginAttempt len s).freeIdx = s.freeIdx := rfl

@[simp] theorem ctrlByte_reasm (b : Byte) : (ctrlByte b s).reasm = s.reasm := rfl
@[simp] theorem ctrlByte_fatal (b : Byte) : (ctrlByte b s).fatal = s.fatal := rfl
@[simp] theorem ctrlByte_events (b : Byte) : (ctrlByte b s).events = s.events := rfl
@[simp] theorem ctrlByte_frm (b : Byte) : (ctrlByte b s).frm = s.frm := rfl
@[simp] theorem ctrlByte_msg (b : Byte) : (ctrlByte b s).msg = s.msg := rfl
@[simp] theorem ctrlByte_params (b : Byte) : (ctrlByte b s).params = s.params := rfl
@[simp] theorem ctrlByte_pins (b : Byte) : (ctrlByte b s).pins = s.pins := rfl
@[simp] theorem ctrlByte_freeIdx (b : Byte) : (ctrlByte b s).freeIdx = s.freeIdx := rfl

@[simp] theorem addrByte_reasm (b : Byte) : (addrByte b s).reasm = s.reasm := rfl
@[simp] theorem addrByte_fatal (b : Byte) : (addrByte b s).fatal = s.fatal := rfl
@[simp] theorem addrByte_events (b : Byte) : (addrByte b s).events = s.events := rfl
@[simp] theorem addrByte_frm (b : Byte) : (addrByte b s).frm = s.frm := rfl
@[simp] theorem addrByte_msg (b : Byte) : (addrByte b s).msg = s.msg := rfl
@[simp] theorem addrByte_params (b : Byte) : (addrByte b s).params = s.params := rfl
@[simp] theorem addrByte_pins (b : Byte) : (addrByte b s).pins = s.pins := rfl
@[simp] theorem addrByte_freeIdx (b : Byte) : (addrByte b s).freeIdx = s.freeIdx := rfl

@[simp] theorem payloadCount_reasm (b : Byte) : (payloadCount b s).reasm = s.reasm := rfl
@[simp] theorem payloadCount_fatal (b : Byte) : (payloadCount b s).fatal = s.fatal := rfl
@[simp] theorem payloadCount_events (b : Byte) : (payloadCount b s).events = s.events := rfl
@[simp] theorem payloadCount_frm (b : Byte) : (payloadCount b s).frm = s.frm := rfl
@[simp] theorem payloadCount_msg (b : Byte) : (payloadCount b s).msg = s.msg := rfl
@[simp] theorem payloadCount_params (b : Byte) : (payloadCount b s).params = s.params := rfl
@[simp] theorem payloadCount_pins (b : Byte) : (payloadCount b s).pins = s.pins := rfl
@[simp] theorem payloadCount_freeIdx (b : Byte) : (payloadCount b s).freeIdx = s.freeIdx := rfl

@[simp] theorem chkByte_reasm (b : Byte) : (chkByte b s).reasm = s.reasm := rfl
@[simp] theorem chkByte_fatal (b : Byte) : (chkByte b s).fatal = s.fatal := rfl
@[simp] theorem chkByte_events (b : Byte) : (chkByte b s).events = s.events := rfl
@[simp] theorem chkByte_frm (b : Byte) : (chkByte b s).frm = s.frm := rfl
@[simp] theorem chkByte_msg (b : Byte) : (chkByte b s).msg = s.msg := rfl
@[simp] theorem chkByte_params (b : Byte) : (chkByte b s).params = s.params := rfl
@[simp] theorem chkByte_pins (b : Byte) : (chkByte b s).pins = s.pins := rfl
@[simp] theorem chkByte_freeIdx (b : Byte) : (chkByte b s).freeIdx = s.freeIdx := rfl

@[simp] theorem badStop_reasm (b : Byte) : (badStop b s).reasm = s.reasm := rfl
@[simp] theorem badStop_fatal (b : Byte) : (badStop b s).fatal = s.fatal := rfl
@[simp] theorem badStop_frm (b : Byte) : (badStop b s).frm = s.frm := rfl
@[simp] theorem badStop_msg (b : Byte) : (badStop b s).msg = s.msg := rfl
@[simp] theorem badStop_params (b : Byte) : (badStop b s).params = s.params := rfl
@[simp] theorem badStop_pins (b : Byte) : (badStop b s).pins = s.pins := rfl
@[simp] theorem badStop_freeIdx (b : Byte) : (badStop b s).freeIdx = s.freeIdx := rfl

/-! What the operations write. -/

@[simp] theorem raise_events (e : OutEvent) : (raise e s).events = s.events ++ [e] := by cases e <;> rfl
@[simp] theorem raise_msg_message (m : LogicalMessage) : (raise (.message m) s).msg = some m := rfl
@[simp] theorem raise_frm_message (m : LogicalMessage) : (raise (.message m) s).frm = s.frm := rfl
@[simp] theorem raise_msg_frameOk (f : LinkFrame) : (raise (.frameOk f) s).msg = s.msg := rfl
@[simp] theorem raise_frm_frameOk (f : LinkFrame) : (raise (.frameOk f) s).frm = ⟨f.len, f.ctrl, f.addr, f.chk⟩ := rfl

/-- An event that is no result leaves both output registers. -/
theorem raise_ports_of_not_result (e : OutEvent) (h : e.eventClass ≠ .result) :
    (raise e s).frm = s.frm ∧ (raise e s).msg = s.msg := by
  cases e <;> first | exact ⟨rfl, rfl⟩ | exact absurd rfl h

@[simp] theorem toIdle_reasm :
    (toIdle s).reasm = { s.reasm with rstate := .idle, rexp := 0#4, mbuf := [] } := rfl
@[simp] theorem dropWith_events (e : OutEvent) : (dropWith e s).events = s.events ++ [e] := by simp [dropWith]
@[simp] theorem dropWith_reasm (e : OutEvent) :
    (dropWith e s).reasm = { s.reasm with rstate := .idle, rexp := 0#4, mbuf := [] } := by simp [dropWith]
@[simp] theorem toHunt_framer : (toHunt s).framer = { s.framer with fphase := .hunt } := rfl
@[simp] theorem clearEvents_events : (clearEvents s).events = [] := rfl
@[simp] theorem fatalEos_events : (fatalEos s).events = s.events ++ [.fatalEos] := rfl
@[simp] theorem fatalErr_events : (fatalErr s).events = s.events ++ [.fatalErr] := rfl
@[simp] theorem fatalEos_fatal : (fatalEos s).fatal = .eos := rfl
@[simp] theorem fatalErr_fatal : (fatalErr s).fatal = .err := rfl
@[simp] theorem idleEdge_events (r : Bool) : (idleEdge r s).events = [] := rfl
@[simp] theorem idleEdge_msg (r : Bool) : (idleEdge r s).msg = if r then none else s.msg := rfl
@[simp] theorem takePins_pins : (takePins s).pins = s.pins.tail := rfl
@[simp] theorem takePins_freeIdx : (takePins s).freeIdx = s.freeIdx + 1 := rfl
@[simp] theorem badStop_events (b : Byte) : (badStop b s).events = s.events ++ [.badStop b] := rfl
@[simp] theorem badStop_framer (b : Byte) : (badStop b s).framer = { s.framer with fphase := .hunt } := rfl
@[simp] theorem startMessage_reasm (src dst : Byte) (data : List Byte) :
    (startMessage src dst data s).reasm = ⟨.assembling, 1#4, src, dst, data⟩ := rfl
@[simp] theorem appendSegment_reasm (data : List Byte) :
    (appendSegment data s).reasm = { s.reasm with mbuf := s.reasm.mbuf ++ data, rexp := s.reasm.rexp + 1#4 } := rfl
@[simp] theorem beginAttempt_framer (len : Byte) :
    (beginAttempt len s).framer = { s.framer with flen := len, fsum := 0#8, fidx := 0#8, fphase := .ctrl, wcnt := 0 } := rfl

end Sys2Proof.Machine
end

