-- ==== Sys2Proof/Laws/Ops.lean ====
section
/-! SUPPORT. Each shared operation, once: everything it can do. -/
namespace Sys2Proof.Machine

/-- What SEG does, in four cases (R103, R106, R108). -/
theorem execSeg_cases (rsv : BitVec 3) (seq : Seq) (src dst : Byte) (data : List Byte) (s : State) :
    (seq ≠ expectation s ∧ execSeg rsv seq src dst data s = .next (dropWith (.seqMismatch seq (expectation s)) s)) ∨
    (seq = expectation s ∧ exceedsCap s.params (assembled src dst data s).buf.length = true ∧
      execSeg rsv seq src dst data s = .next (dropWith .msgOverflow s)) ∨
    (seq = expectation s ∧ exceedsCap s.params (assembled src dst data s).buf.length = false ∧ s.reasm.rstate = .idle ∧
      execSeg rsv seq src dst data s = .next (startMessage src dst data s)) ∨
    (seq = expectation s ∧ exceedsCap s.params (assembled src dst data s).buf.length = false ∧ s.reasm.rstate = .assembling ∧
      execSeg rsv seq src dst data s = .next (appendSegment data s)) := by
  unfold execSeg
  by_cases hq : seq = expectation s
  · rw [if_neg (not_not.mpr hq)]
    cases hc : exceedsCap s.params (assembled src dst data s).buf.length
    · cases hr : s.reasm.rstate <;> simp [hq]
    · simp [hq]
  · simp [hq]

/-- What SEGF does, in three cases (R104, R106, R108). -/
theorem execSegf_cases (rsv : BitVec 3) (seq : Seq) (src dst : Byte) (data : List Byte) (s : State) :
    (seq ≠ expectation s ∧ execSegf rsv seq src dst data s = .next (dropWith (.seqMismatch seq (expectation s)) s)) ∨
    (seq = expectation s ∧ exceedsCap s.params (assembled src dst data s).buf.length = true ∧
      execSegf rsv seq src dst data s = .next (dropWith .msgOverflow s)) ∨
    (seq = expectation s ∧ exceedsCap s.params (assembled src dst data s).buf.length = false ∧
      execSegf rsv seq src dst data s = .next (raise (.message (assembled src dst data s)) (toIdle s))) := by
  unfold execSegf
  by_cases hq : seq = expectation s
  · rw [if_neg (not_not.mpr hq)]
    cases hc : exceedsCap s.params (assembled src dst data s).buf.length <;> simp [hq]
  · simp [hq]

/-- What a delivery can do (R100 to R108): one of five updates, always a next state. -/
theorem deliver_cases (p : List Byte) (s : State) :
    (∃ n : Fin 3, n.val = p.length ∧ deliver p s = .next (dropWith (.runtSegment n) s)) ∨
    (∃ seq, seq ≠ expectation s ∧ deliver p s = .next (dropWith (.seqMismatch seq (expectation s)) s)) ∨
    deliver p s = .next (dropWith .msgOverflow s) ∨
    (∃ src dst data, exceedsCap s.params data.length = false ∧ s.reasm.rstate = .idle ∧
      deliver p s = .next (startMessage src dst data s)) ∨
    (∃ data, exceedsCap s.params (s.reasm.mbuf ++ data).length = false ∧ s.reasm.rstate = .assembling ∧
      deliver p s = .next (appendSegment data s)) ∨
    (∃ m : LogicalMessage, exceedsCap s.params m.buf.length = false ∧ deliver p s = .next (raise (.message m) (toIdle s))) := by
  rcases parseSegment_cases p with ⟨ci, src, dst, data, rfl⟩ | ⟨n, hn, he⟩
  · simp only [deliver, parseSegment_cons]
    cases ciFin ci
    · rcases execSeg_cases (ciRsv ci) (ciSeq ci) src dst data s with
        ⟨h, e⟩ | ⟨-, -, e⟩ | ⟨-, hc, hr, e⟩ | ⟨-, hc, hr, e⟩
      · exact .inr (.inl ⟨_, h, e⟩)
      · exact .inr (.inr (.inl e))
      · simp only [assembled, hr] at hc
        exact .inr (.inr (.inr (.inl ⟨src, dst, data, hc, hr, e⟩)))
      · simp only [assembled, hr] at hc
        exact .inr (.inr (.inr (.inr (.inl ⟨data, hc, hr, e⟩))))
    · rcases execSegf_cases (ciRsv ci) (ciSeq ci) src dst data s with ⟨h, e⟩ | ⟨-, -, e⟩ | ⟨-, hc, e⟩
      · exact .inr (.inl ⟨_, h, e⟩)
      · exact .inr (.inr (.inl e))
      · exact .inr (.inr (.inr (.inr (.inr ⟨_, hc, e⟩))))
  · exact .inl ⟨n, hn, by simp only [deliver, he, runtSegment]⟩

/-- A delivered payload that decodes runs its operation (R100, R101). -/
theorem deliver_decoded {p : List Byte} {i : Instr} (h : decode .segment p = .ok i) (s : State) :
    deliver p s = exec i s := by
  rcases parseSegment_cases p with ⟨ci, src, dst, data, rfl⟩ | ⟨n, -, he⟩
  · simp only [decode, decodeSegment, parseSegment_cons, Except.ok.injEq] at h
    subst h
    simp only [deliver, parseSegment_cons, Segment.toInstr]
    cases ciFin ci <;> rfl
  · simp [decode, decodeSegment, he] at h

/-- A delivery touches neither the framer nor the fatal condition (R10), and not the model's own fields. -/
theorem deliver_frame {p : List Byte} {s t : State} (h : deliver p s = .next t) :
    t.framer = s.framer ∧ t.fatal = s.fatal ∧ t.frm = s.frm ∧ t.params = s.params ∧ t.pins = s.pins ∧ t.freeIdx = s.freeIdx := by
  rcases deliver_cases p s with ⟨n, -, e⟩ | ⟨q, -, e⟩ | e | ⟨src, dst, data, -, -, e⟩ | ⟨data, -, -, e⟩ | ⟨m, -, e⟩ <;>
    rw [e, Host.Outcome.next.injEq] at h <;> subst h <;>
    simp [dropWith, (raise_ports_of_not_result (toIdle s) _ (by simp [OutEvent.eventClass] : OutEvent.eventClass (.runtSegment _) ≠ .result)).1,
      (raise_ports_of_not_result (toIdle s) _ (by simp [OutEvent.eventClass] : OutEvent.eventClass (.seqMismatch _ _) ≠ .result)).1,
      (raise_ports_of_not_result (toIdle s) _ (by simp [OutEvent.eventClass] : OutEvent.eventClass .msgOverflow ≠ .result)).1]

/-- What FRAME.HDR does (R82, R71). -/
theorem execFrameHdr_cases (len1 len2 : Byte) (s : State) :
    (Instr.wf (.frameHdr len1 len2) = true ∧ execFrameHdr len1 len2 s = .next (beginAttempt len1 s)) ∨
    (Instr.wf (.frameHdr len1 len2) = false ∧ execFrameHdr len1 len2 s = .next s) := by
  unfold execFrameHdr
  by_cases h : len1 = len2 ∧ Config.LEN_MIN ≤ len1.toNat
  · exact .inl ⟨by simpa [Instr.wf] using h, if_pos h⟩
  · refine .inr ⟨?_, if_neg h⟩
    rw [Bool.eq_false_iff]
    intro hw
    exact h (by simpa [Instr.wf] using hw)

/-- What FRAME.TRL does (R87). -/
theorem execFrameTrl_cases (chk : Byte) (s : State) :
    (chk ≠ s.framer.fsum ∧ execFrameTrl chk s = .next (raise (.badChecksum chk s.framer.fsum) (toHunt s))) ∨
    (chk = s.framer.fsum ∧ execFrameTrl chk s =
      deliver (linkFrame chk s).payload (raise (.frameOk (linkFrame chk s)) (toHunt s))) := by
  unfold execFrameTrl
  by_cases h : chk = s.framer.fsum
  · exact .inr ⟨h, if_neg (not_not.mpr h)⟩
  · exact .inl ⟨h, if_pos h⟩

/-- The trailer's two bytes are decoded by the second (R65). -/
theorem decode_trailer_eq (chk b : Byte) :
    decode .trailer [chk, b] = if b = Config.STOP then .ok (.frameTrl chk) else .error (.badStop b) := by
  by_cases h : b = Config.STOP <;> simp [decode, decodeTrailer, h]

/-- A byte at the stop position: a bad stop byte, or the trailer (R87). -/
theorem stopByte_eq (b : Byte) (s : State) :
    stopByte b s = if b = Config.STOP then execFrameTrl s.framer.fchk s else .next (badStop b s) := by
  by_cases h : b = Config.STOP <;> simp [stopByte, decode_trailer_eq, h, exec]

/-- Four bytes have the header's pattern when the outer two are start markers (R62). -/
theorem decode_header_eq (a b c d : Byte) :
    decode .header [a, b, c, d] =
      if a ≠ Config.START then .error (.badStart1 a)
      else if d ≠ Config.START then .error (.badStart2 d) else .ok (.frameHdr b c) := rfl

/-- What a byte in HUNT does (R81, R82): the shift, and a frame attempt when the new window is a header. -/
theorem huntByte_eq (b : Byte) (s : State) :
    huntByte b s =
      if min (s.framer.wcnt + 1) Config.WIN = Config.WIN ∧ s.framer.w1 = Config.START ∧ b = Config.START ∧
          s.framer.w2 = s.framer.w3 ∧ Config.LEN_MIN ≤ s.framer.w2.toNat
      then .next (beginAttempt s.framer.w2 (huntShift b s)) else .next (huntShift b s) := by
  unfold huntByte fetchHeader
  have hw : windowBytes (huntShift b s) = [s.framer.w1, s.framer.w2, s.framer.w3, b] := rfl
  have hc : (huntShift b s).framer.wcnt = min (s.framer.wcnt + 1) Config.WIN := rfl
  rw [hw, hc, decode_header_eq]
  by_cases h4 : min (s.framer.wcnt + 1) Config.WIN = Config.WIN
  · by_cases h1 : s.framer.w1 = Config.START
    · by_cases h3 : b = Config.START
      · simp only [if_pos h4, h1, h3, ne_eq, not_true_eq_false, if_false, Except.toOption, exec, execFrameHdr, true_and]
        simp only [h4, true_and]
      · simp [h4, h1, h3, Except.toOption]
    · simp [h4, h1, Except.toOption]
  · simp [h4]

/-- A delivery answers a next state and appends at most one event, of the reassembler's four; only a message moves the message port. -/
theorem deliver_next (p : List Byte) (s : State) : ∃ t es, deliver p s = .next t ∧ t.events = s.events ++ es ∧
    ((es = [] ∧ t.msg = s.msg) ∨ (∃ n, es = [.runtSegment n] ∧ t.msg = s.msg) ∨ (∃ g x, es = [.seqMismatch g x] ∧ t.msg = s.msg) ∨
      (es = [.msgOverflow] ∧ t.msg = s.msg) ∨ ∃ m, es = [.message m] ∧ t.msg = some m) := by
  rcases deliver_cases p s with ⟨n, -, e⟩ | ⟨q, -, e⟩ | e | ⟨src, dst, data, -, -, e⟩ | ⟨data, -, -, e⟩ | ⟨m, -, e⟩
  · exact ⟨_, _, e, dropWith_events .., .inr (.inl ⟨n, rfl, rfl⟩)⟩
  · exact ⟨_, _, e, dropWith_events .., .inr (.inr (.inl ⟨_, _, rfl, rfl⟩))⟩
  · exact ⟨_, _, e, dropWith_events .., .inr (.inr (.inr (.inl ⟨rfl, rfl⟩)))⟩
  · exact ⟨_, [], e, by simp, .inl ⟨rfl, rfl⟩⟩
  · exact ⟨_, [], e, by simp, .inl ⟨rfl, rfl⟩⟩
  · exact ⟨_, _, e, raise_events .., .inr (.inr (.inr (.inr ⟨m, rfl, rfl⟩)))⟩

/-! The dispatch of R80, one equation per branch. -/

theorem consume_fatal {s : State} (h : s.fatal ≠ .none) (x : InSym) : consume x s = .next (clearEvents s) := if_pos h

theorem consume_eos {s : State} (h : s.fatal = .none) : consume .eos s = .next (fatalEos (clearEvents s)) := by
  simp [consume, h]

theorem consume_err {s : State} (h : s.fatal = .none) : consume .err s = .next (fatalErr (clearEvents s)) := by
  simp [consume, h]

theorem consume_byte {s : State} (h : s.fatal = .none) (b : Byte) :
    consume (.byte b) s = consumeByte b (clearEvents s) := by
  simp [consume, h]

theorem consume_hunt {s : State} (h : s.fatal = .none) (hp : s.framer.fphase = .hunt) (b : Byte) :
    consume (.byte b) s = huntByte b (clearEvents s) := by
  simp [consume_byte h, consumeByte, hp]

theorem consume_ctrl {s : State} (h : s.fatal = .none) (hp : s.framer.fphase = .ctrl) (b : Byte) :
    consume (.byte b) s = .next (ctrlByte b (clearEvents s)) := by
  simp [consume_byte h, consumeByte, hp]

theorem consume_addr {s : State} (h : s.fatal = .none) (hp : s.framer.fphase = .addr) (b : Byte) :
    consume (.byte b) s = .next (addrByte b (clearEvents s)) := by
  simp [consume_byte h, consumeByte, hp]

theorem consume_payload {s : State} (h : s.fatal = .none) (hp : s.framer.fphase = .payload) (b : Byte) :
    consume (.byte b) s = payloadByte b (clearEvents s) := by
  simp [consume_byte h, consumeByte, hp]

theorem consume_chk {s : State} (h : s.fatal = .none) (hp : s.framer.fphase = .chk) (b : Byte) :
    consume (.byte b) s = .next (chkByte b (clearEvents s)) := by
  simp [consume_byte h, consumeByte, hp]

theorem consume_stop {s : State} (h : s.fatal = .none) (hp : s.framer.fphase = .stop) (b : Byte) :
    consume (.byte b) s =
      if b = Config.STOP then execFrameTrl s.framer.fchk (clearEvents s) else .next (badStop b (clearEvents s)) := by
  simp [consume_byte h, consumeByte, hp, stopByte_eq]

/-- One clock edge, in three cases (R29, R31, R32). -/
theorem edge_cases (p : Pins) (s : State) :
    (p.rst = true ∧ edge p s = .next (resetBlock s)) ∨
    (p.rst = false ∧ p.inValid = true ∧ s.inReady = true ∧ edge p s = consume (symbolOf p) s) ∨
    (p.rst = false ∧ (p.inValid && s.inReady) = false ∧ edge p s = .next (idleEdge p.msgReady s)) := by
  unfold edge
  cases hr : p.rst
  · cases hv : p.inValid <;> cases hi : s.inReady <;> simp
  · simp

/-- `in_ready` is 1 exactly when nothing has failed and no message waits (R29). -/
theorem inReady_iff (s : State) : s.inReady = true ↔ s.fatal = .none ∧ s.msg = none := by
  simp [State.inReady, Option.isNone_iff_eq_none]

/-- What one symbol can do to everything but the framer, and with which events (R80, R100, R147, R148, R150). -/
theorem consume_cases {x : InSym} {s t : State} (h : consume x s = .next t) :
    (t.events = [] ∧ t.reasm = s.reasm ∧ t.frm = s.frm ∧ t.msg = s.msg) ∨
    (t.events = [.fatalEos] ∧ t.reasm = s.reasm ∧ t.frm = s.frm ∧ t.msg = s.msg) ∨
    (t.events = [.fatalErr] ∧ t.reasm = s.reasm ∧ t.frm = s.frm ∧ t.msg = s.msg) ∨
    (s.framer.fphase = .stop ∧
      ((∃ b, t.events = [.badStop b] ∧ b ≠ 0x16#8 ∧ t.reasm = s.reasm ∧ t.frm = s.frm ∧ t.msg = s.msg) ∨
       (t.events = [.badChecksum s.framer.fchk s.framer.fsum] ∧ t.reasm = s.reasm ∧ t.frm = s.frm ∧ t.msg = s.msg) ∨
       (∃ f es, f = linkFrame s.framer.fchk s ∧ s.framer.fchk = s.framer.fsum ∧ t.events = .frameOk f :: es ∧
         t.frm = ⟨f.len, f.ctrl, f.addr, f.chk⟩ ∧
         ((es = [] ∧ t.msg = s.msg) ∨ (∃ n, es = [.runtSegment n] ∧ t.msg = s.msg) ∨
          (∃ g x, es = [.seqMismatch g x] ∧ t.msg = s.msg) ∨ (es = [.msgOverflow] ∧ t.msg = s.msg) ∨
          ∃ m, es = [.message m] ∧ t.msg = some m)))) := by
  by_cases hf : s.fatal = .none
  swap
  · rw [consume_fatal hf] at h; cases h; exact .inl ⟨rfl, rfl, rfl, rfl⟩
  cases x with
  | eos => rw [consume_eos hf] at h; cases h; exact .inr (.inl ⟨rfl, rfl, rfl, rfl⟩)
  | err => rw [consume_err hf] at h; cases h; exact .inr (.inr (.inl ⟨rfl, rfl, rfl, rfl⟩))
  | byte b =>
    cases hp : s.framer.fphase with
    | hunt => 
      rw [consume_hunt hf hp, huntByte_eq] at h
      split at h <;> cases h <;> exact .inl ⟨rfl, rfl, rfl, rfl⟩
    | ctrl => rw [consume_ctrl hf hp] at h; cases h; exact .inl ⟨rfl, rfl, rfl, rfl⟩
    | addr => rw [consume_addr hf hp] at h; cases h; exact .inl ⟨rfl, rfl, rfl, rfl⟩
    | chk => rw [consume_chk hf hp] at h; cases h; exact .inl ⟨rfl, rfl, rfl, rfl⟩
    | payload => 
      rw [consume_payload hf hp] at h
      obtain ⟨-, rfl⟩ := writeFrameBuffer_next h
      exact .inl ⟨rfl, rfl, rfl, rfl⟩
    | stop =>
      rw [consume_stop hf hp] at h
      refine .inr (.inr (.inr ⟨rfl, ?_⟩))
      split at h
      · rcases execFrameTrl_cases s.framer.fchk (clearEvents s) with ⟨-, e⟩ | ⟨hc, e⟩ <;> rw [e] at h
        · cases h; exact .inr (.inl ⟨rfl, rfl, rfl, rfl⟩)
        · obtain ⟨e1, e2, e3, -⟩ := deliver_frame h
          obtain ⟨t', es, h1, h2, h3⟩ := deliver_next (linkFrame s.framer.fchk (clearEvents s)).payload
            (raise (.frameOk (linkFrame s.framer.fchk (clearEvents s))) (toHunt (clearEvents s)))
          rw [h] at h1; cases h1
          exact .inr (.inr ⟨_, es, rfl, hc, h2, e3, h3⟩)
      · rename_i hb
        cases h; exact .inl ⟨b, rfl, hb, rfl, rfl, rfl⟩

/-- What one step can do: reset, an edge without a symbol, or the effect of the symbol consumed (R29, R32). -/
theorem step_cases {s t : State} (h : step s = .next t) :
    ((nextPins s).rst = true ∧ t = resetBlock (takePins s)) ∨
    ((nextPins s).rst = false ∧ ((nextPins s).inValid && s.inReady) = false ∧ t = idleEdge (nextPins s).msgReady (takePins s)) ∨
    ((nextPins s).rst = false ∧ (nextPins s).inValid = true ∧ s.inReady = true ∧
      consume (symbolOf (nextPins s)) (takePins s) = .next t) := by
  rcases edge_cases (nextPins s) (takePins s) with ⟨a, e⟩ | ⟨a, b, hr, e⟩ | ⟨a, b, e⟩
  · rw [step, e] at h
    cases h
    exact .inl ⟨a, rfl⟩
  · rw [step, e] at h
    exact .inr (.inr ⟨a, b, hr, h⟩)
  · rw [step, e] at h
    cases h
    exact .inr (.inl ⟨a, b, rfl⟩)

/-- A run over two pieces of the stream is the two runs in a row (R5). -/
theorem runSymbols_append {xs ys : List InSym} {s t u : State} {es fs : List OutEvent}
    (h : runSymbols xs s = some (t, es)) (h2 : runSymbols ys t = some (u, fs)) :
    runSymbols (xs ++ ys) s = some (u, es ++ fs) := by
  induction xs generalizing s es with
  | nil =>
    simp only [runSymbols, Option.some.injEq, Prod.mk.injEq] at h
    obtain ⟨rfl, rfl⟩ := h
    simpa using h2
  | cons x xs ih =>
    simp only [runSymbols, List.cons_append] at h ⊢
    cases hc : consume x s with
    | next v =>
      rw [hc] at h
      simp only at h ⊢
      cases hv : runSymbols xs v with
      | none => rw [hv] at h; cases h
      | some p =>
        obtain ⟨w, gs⟩ := p
        rw [hv] at h
        simp only [Option.some.injEq, Prod.mk.injEq] at h
        obtain ⟨rfl, rfl⟩ := h
        rw [ih hv]
        simp
    | fault r => rw [hc] at h; cases h
    | refused r => rw [hc] at h; cases h

/-- A step that answers, put in front of a run that does (R5). -/
theorem runSymbols_cons {x : InSym} {xs : List InSym} {s t u : State} {es : List OutEvent}
    (h : consume x s = .next t) (hr : runSymbols xs t = some (u, es)) :
    runSymbols (x :: xs) s = some (u, t.events ++ es) := by
  simp [runSymbols, h, hr]

end Sys2Proof.Machine
end

