-- ==== Sys2Proof/Laws/PerInstr.lean ====
section
/-! SUPPORT. Families of facts, one lemma per constructor of Instr. -/
namespace Sys2Proof.Laws.EncodeLength

/-- The number of bytes an operation occupies (R61, R65, R66). -/
def bytes : Instr → Nat
  | .frameHdr _ _ => 4
  | .frameTrl _ => 2
  | .seg _ _ _ _ data => Config.SEG_HDR + data.length
  | .segf _ _ _ _ data => Config.SEG_HDR + data.length

/-- An operation's encoding has the length of its format. -/
def Statement (i : Instr) : Prop := (encode i).length = bytes i

theorem frameHdr (len1 len2 : Byte) : Statement (.frameHdr len1 len2) := rfl

theorem frameTrl (chk : Byte) : Statement (.frameTrl chk) := rfl

theorem seg (rsv : BitVec 3) (seq : Seq) (src dst : Byte) (data : List Byte) : Statement (.seg rsv seq src dst data) := by
  simp [Statement, encode, bytes, Config.SEG_HDR]
  omega

theorem segf (rsv : BitVec 3) (seq : Seq) (src dst : Byte) (data : List Byte) : Statement (.segf rsv seq src dst data) := by
  simp [Statement, encode, bytes, Config.SEG_HDR]
  omega

end Sys2Proof.Laws.EncodeLength
end

