-- ==== Sys2Proof/Tests/Slice0.lean ====
section
/-! SUPPORT. The model's own tests, from the vectors of 95_test_vectors.md, and for each statement with hypotheses a state that meets them. -/
namespace Sys2Proof.Machine

/-- The answer is a next state that passes the check. -/
def onNext (o : Result) (check : State → Bool) : Bool :=
  match o with
  | .next t => check t
  | .fault _ => false
  | .refused _ => false

/-! ## States of the vectors -/

/-- V1 after step 2: the window holds 68 09 09. -/
def headerPending : State :=
  { State.reset with framer := { State.reset.framer with w1 := 0x68#8, w2 := 0x09#8, w3 := 0x09#8, wcnt := 3 } }

/-- V7: the window holds 68 01 01. -/
def shortHeaderPending : State :=
  { State.reset with framer := { State.reset.framer with w1 := 0x68#8, w2 := 0x01#8, w3 := 0x01#8, wcnt := 3 } }

/-- V2 after the noise 00 68 16. -/
def noiseInWindow : State :=
  { State.reset with framer := { State.reset.framer with w2 := 0x68#8, w3 := 0x16#8, wcnt := 3 } }

/-- V1 after step 3, in CTRL. -/
def inCtrl : State := { State.reset with framer := { State.reset.framer with fphase := .ctrl, flen := 9#8 } }

/-- V1 after step 4, in ADDR; and V6, whose declared length is 2. -/
def inAddr (len : Byte) : State :=
  { State.reset with framer := { State.reset.framer with fphase := .addr, flen := len, fctrl := 0x53#8, fsum := 0x53#8 } }

/-- V1 after step 5, in PAYLOAD. -/
def inPayload : State :=
  { State.reset with framer :=
      { State.reset.framer with fphase := .payload, flen := 9#8, fctrl := 0x53#8, faddr := 0xFF#8, fsum := 0x52#8 } }

/-- An index into the frame buffer at the edges of its range. -/
def inPayloadAt (idx : Byte) : State :=
  { inPayload with framer := { inPayload.framer with flen := 255#8, fidx := idx } }

/-- V6 after its checksum byte, in CHK and in STOP, with a checksum byte to choose. -/
def inChk : State :=
  { State.reset with framer :=
      { State.reset.framer with fphase := .chk, flen := 2#8, fctrl := 0x53#8, faddr := 0xFF#8, fsum := 0x52#8 } }

def inStop (chk : Byte) : State := { inChk with framer := { inChk.framer with fphase := .stop, fchk := chk } }

/-- V6 in STOP, the stop byte offered. -/
def stopOffered : State := { inStop 0x52#8 with pins := [pinsOf (.byte 0x16#8)] }

/-- V20 after Fa. -/
def assemblingOne : State :=
  { State.reset with reasm :=
      { rstate := .assembling, rexp := 1#4, msrc := 0x01#8, mdst := 0x67#8, mbuf := [0x11#8, 0x22#8, 0x33#8] } }

/-- V31: the same with MSG_CAP = 4. -/
def assemblingCapFour : State := { assemblingOne with params := { msgCap := some 4 } }

/-- A message waits, and the consumer is ready. -/
def messageWaits : State :=
  { State.reset with msg := some ⟨0x01#8, 0x67#8, [0xDE#8]⟩, pins := [{ inValid := true, msgReady := true }] }

/-- V15 after ERR. -/
def failed : State := { State.reset with fatal := .err }

/-! ## Well-formedness: an ill-formed term for each check -/

theorem test_wf_header_lengths_differ : Instr.wf (.frameHdr 9#8 10#8) = false := by decide
theorem test_wf_header_length_below_two : Instr.wf (.frameHdr 1#8 1#8) = false := by decide
theorem test_wf_header_good : Instr.wf (.frameHdr 2#8 2#8) = true := by decide
theorem test_wf_seg_data_too_long : Instr.wf (.seg 0#3 0#4 0#8 0#8 (List.replicate 251 0#8)) = false := by
  simp only [Instr.wf, List.length_replicate]; decide
theorem test_wf_segf_data_too_long : Instr.wf (.segf 0#3 0#4 0#8 0#8 (List.replicate 251 0#8)) = false := by
  simp only [Instr.wf, List.length_replicate]; decide

/-! ## Decoding: words written out from 30_encoding.md -/

-- R62: 01101000 00001001 00001001 01101000
theorem test_decode_frame_hdr : decodeTableWord 32 0b01101000000010010000100101101000 = some (.frameHdr 9#8 9#8) := by decide
-- R65: 00000010 00010110
theorem test_decode_frame_trl : decodeTableWord 16 0b0000001000010110 = some (.frameTrl 0x02#8) := by decide
-- R69: 010 0 1110
theorem test_decode_seg : decodeTableWord 8 0b01001110 = some (.seg 2#3 14#4 0#8 0#8 []) := by decide
-- V24: CI = F0, 111 1 0000
theorem test_decode_segf : decode .segment [0xF0#8, 0x01#8, 0x67#8, 0xAA#8] = .ok (.segf 7#3 0#4 0x01#8 0x67#8 [0xAA#8]) := by decide
-- V1: the stream of a frame
theorem test_frame_bytes_V1 :
    frameBytes 0x53#8 0xFF#8 (segmentBytes 0#4 true 0x01#8 0x67#8 [0xDE#8, 0xAD#8, 0xBE#8, 0xEF#8]) =
      [0x68#8, 0x09#8, 0x09#8, 0x68#8, 0x53#8, 0xFF#8, 0x10#8, 0x01#8, 0x67#8, 0xDE#8, 0xAD#8, 0xBE#8, 0xEF#8, 0x02#8, 0x16#8] := by
  decide
-- V8: the checksum wraps
theorem test_frame_checksum_V8 :
    frameChecksum 0xFF#8 0xFF#8 [0x10#8, 0xFF#8, 0xFF#8, 0xFF#8, 0xFF#8] = 0x0A#8 := by decide

/-! ## One step each -/

-- V1 step 3
theorem test_frame_hdr_V1 : onNext (consume (.byte 0x68#8) headerPending)
    (fun t => t.framer.fphase == .ctrl && t.framer.flen == 9#8 && t.framer.wcnt == 0 && t.events == []) = true := by decide
-- V7: 68 01 01 68 is no header, the window is kept
theorem test_frame_hdr_V7 : onNext (consume (.byte 0x68#8) shortHeaderPending)
    (fun t => t.framer.fphase == .hunt && t.framer.wcnt == 4 && t.framer.w0 == 0x68#8) = true := by decide
-- V6: FRAME_OK, then RUNT_SEGMENT(0)
theorem test_frame_trl_V6 : onNext (consume (.byte 0x16#8) (inStop 0x52#8))
    (fun t => t.events == [.frameOk ⟨2#8, 0x53#8, 0xFF#8, [], 0x52#8⟩, .runtSegment 0] && t.framer.fphase == .hunt) = true := by
  decide
-- R150: stop before checksum
theorem test_bad_stop_first : onNext (consume (.byte 0x68#8) (inStop 0xFD#8))
    (fun t => t.events == [.badStop 0x68#8] && t.framer.fphase == .hunt) = true := by decide
-- V20, frame Fa
theorem test_seg_V20 : onNext (deliver [0x00#8, 0x01#8, 0x67#8, 0x11#8, 0x22#8, 0x33#8] State.reset)
    (fun t => t.reasm == assemblingOne.reasm && t.events == []) = true := by decide
-- P4: the expected number wraps from 15 to 0
theorem test_seg_wraps_P4 :
    onNext (exec (.seg 0#3 15#4 0#8 0#8 [0x0F#8]) { assemblingOne with reasm := { assemblingOne.reasm with rexp := 15#4 } })
      (fun t => t.reasm.rexp == 0#4 && t.reasm.rstate == .assembling) = true := by decide
-- V20, frame Fb
theorem test_segf_V20 : onNext (deliver [0x11#8, 0x01#8, 0x67#8, 0x44#8, 0x55#8] assemblingOne)
    (fun t => t.events == [.message ⟨0x01#8, 0x67#8, [0x11#8, 0x22#8, 0x33#8, 0x44#8, 0x55#8]⟩] &&
      t.reasm.rstate == .idle && t.reasm.mbuf == []) = true := by decide
-- V31: MSG_CAP = 4
theorem test_segf_V31 : onNext (deliver [0x11#8, 0x01#8, 0x67#8, 0x44#8, 0x55#8] assemblingCapFour)
    (fun t => t.events == [.msgOverflow] && t.reasm.rstate == .idle && t.msg == none) = true := by decide
-- R32: a waiting message stalls the block, and is taken
theorem test_stall : onNext (step messageWaits)
    (fun t => t.framer == messageWaits.framer && t.msg == none && t.events == []) = true := by decide

/-! ## A table word placed for the next step -/

theorem test_fetch_frame_hdr : onNext (step (State.reset.withFetchWord 32 0x68090968))
    (fun t => t.framer.fphase == .ctrl && t.framer.flen == 9#8) = true := by decide
theorem test_fetch_frame_trl : onNext (step (State.reset.withFetchWord 16 0x0016))
    (fun t => t.events == [.frameOk ⟨2#8, 0#8, 0#8, [], 0#8⟩, .runtSegment 0]) = true := by decide
theorem test_fetch_seg : onNext (step (State.reset.withFetchWord 8 0x00))
    (fun t => t.reasm.rstate == .assembling && t.reasm.rexp == 1#4) = true := by decide
theorem test_fetch_segf : onNext (step (State.reset.withFetchWord 8 0x10))
    (fun t => t.msg == some ⟨0#8, 0#8, []⟩ && t.reasm.rstate == .idle) = true := by decide

/-! ## Downstream -/

-- V40, V41, V42, V43
theorem test_size_field_V40 : Downstream.sizeFieldAt [0x05#8] 0 = .ok (0, 5) := by decide
theorem test_size_field_V41 : Downstream.sizeFieldAt [0x82#8, 0x01#8, 0x2C#8] 0 = .ok (2, 300) := by decide
theorem test_size_field_V42 : Downstream.sizeFieldAt [0x7F#8] 0 = .ok (0, 127) := by decide
theorem test_size_field_V43 : Downstream.sizeFieldAt [0x81#8, 0x80#8] 0 = .ok (1, 128) := by decide

/-- The system title of the worked layouts. -/
def shortTitle : List Byte := [0x4B#8, 0x46#8, 0x4D#8, 0x10#8, 0x20#8, 0x01#8, 0x12#8, 0x34#8]

/-- The short worked layout of 42_downstream.md section 3, the security-control byte to choose. -/
def shortEnvelope (control : Byte) : List Byte :=
  [0xDB#8, 0x08#8, 0x4B#8, 0x46#8, 0x4D#8, 0x10#8, 0x20#8, 0x01#8, 0x12#8, 0x34#8, 0x11#8, control, 0#8, 0#8, 0#8, 0x2A#8]
    ++ List.replicate 12 0xC0#8

-- V44: the counter is 42 and the ciphertext has 12 bytes
theorem test_envelope_V44 : Downstream.frameCounter (shortEnvelope 0x20#8) = .ok 42 ∧
    Downstream.ciphertext (shortEnvelope 0x20#8) = .ok (List.replicate 12 0xC0#8) := by decide

/-! ## A state and operands that meet the hypotheses of each statement -/

theorem witness_ReservedControlInfoBitsAreIgnored : ∀ k, k < 5 → (0xF0#8 : Byte).getLsbD k = (0x10#8 : Byte).getLsbD k := by decide

theorem witness_DecodeAndEncodeAgree :
    decode .segment [0xF0#8, 0x01#8, 0x67#8] = .ok (.segf 7#3 0#4 0x01#8 0x67#8 []) := by decide

theorem witness_DecoderAcceptsExactlyThePatterns :
    (0x17#8 : Byte) ≠ 0x16#8 ∧ (0x67#8 : Byte) ≠ 0x68#8 ∧ ([0x68#8, 9#8, 9#8] : List Byte).length ≠ 4 ∧
      ([0x02#8] : List Byte).length ≠ 2 ∧ ([0x10#8, 0x01#8] : List Byte).length < 3 := by decide

theorem witness_StepRunsTheDecodedInstruction_header :
    let s : State := { headerPending with pins := [pinsOf (.byte 0x68#8)] }
    s.pins = pinsOf (.byte 0x68#8) :: [] ∧ (pinsOf (.byte 0x68#8)).rst = false ∧ (pinsOf (.byte 0x68#8)).inValid = true ∧
      symbolOf (pinsOf (.byte 0x68#8)) = .byte 0x68#8 ∧ s.fatal = .none ∧ s.msg = none ∧ s.framer.fphase = .hunt ∧
      3 ≤ s.framer.wcnt ∧
      decode .header [s.framer.w1, s.framer.w2, s.framer.w3, 0x68#8] = .ok (.frameHdr 9#8 9#8) := by decide

theorem witness_StepRunsTheDecodedInstruction_trailer :
    stopOffered.pins = pinsOf (.byte 0x16#8) :: [] ∧ (pinsOf (.byte 0x16#8)).rst = false ∧
      (pinsOf (.byte 0x16#8)).inValid = true ∧ symbolOf (pinsOf (.byte 0x16#8)) = .byte 0x16#8 ∧ stopOffered.fatal = .none ∧
      stopOffered.msg = none ∧ stopOffered.framer.fphase = .stop ∧
      decode .trailer [stopOffered.framer.fchk, 0x16#8] = .ok (.frameTrl 0x52#8) := by decide

theorem witness_StepRunsTheDecodedInstruction_segment :
    let s := placeSegment 0x10#8 0x01#8 0x67#8 State.reset
    s.framer.fchk = s.framer.fsum ∧
      decode .segment (linkFrame s.framer.fchk s).payload = .ok (.segf 0#3 0#4 0x01#8 0x67#8 []) := by decide

theorem witness_EdgeConsumesTheOfferedSymbol :
    stopOffered.pins = pinsOf (.byte 0x16#8) :: [] ∧ (pinsOf (.byte 0x16#8)).rst = false ∧
      (pinsOf (.byte 0x16#8)).inValid = true ∧ stopOffered.inReady = true := by decide

theorem witness_NothingChangesWithoutAValidSymbol :
    (nextPins State.reset).rst = false ∧ (nextPins State.reset).inValid = false := by decide

theorem witness_HuntedByteIsShiftedAndTested :
    (let s := headerPending
     s.fatal = .none ∧ s.framer.fphase = .hunt ∧ 3 ≤ s.framer.wcnt ∧ s.framer.w1 = 0x68#8 ∧ s.framer.w2 = s.framer.w3 ∧
       2 ≤ s.framer.w2.toNat) ∧
    (let s := shortHeaderPending
     s.fatal = .none ∧ s.framer.fphase = .hunt ∧
       ¬ (3 ≤ s.framer.wcnt ∧ s.framer.w1 = 0x68#8 ∧ (0x68#8 : Byte) = 0x68#8 ∧ s.framer.w2 = s.framer.w3 ∧
         2 ≤ s.framer.w2.toNat)) := by decide

theorem witness_FrameHdrRecognisesAHeader : 2 ≤ (2#8 : Byte).toNat := by decide

theorem witness_FrameHdrCandidateIsNoHeader :
    ((9#8 : Byte) ≠ 10#8 ∨ (9#8 : Byte).toNat < 2) ∧ ((1#8 : Byte) ≠ 1#8 ∨ (1#8 : Byte).toNat < 2) := by decide

theorem witness_HeaderFieldBytesAreTaken :
    (inCtrl.fatal = .none ∧ inCtrl.framer.fphase = .ctrl) ∧
    ((inAddr 3#8).fatal = .none ∧ (inAddr 3#8).framer.fphase = .addr ∧ 2 < (inAddr 3#8).framer.flen.toNat) ∧
    ((inAddr 2#8).fatal = .none ∧ (inAddr 2#8).framer.fphase = .addr ∧ (inAddr 2#8).framer.flen.toNat = 2) ∧
    (inChk.fatal = .none ∧ inChk.framer.fphase = .chk) := by decide

theorem witness_PayloadByteIsStored :
    let s := inPayloadAt 252#8
    s.fatal = .none ∧ s.framer.fphase = .payload ∧ Memory.wf s.framer.fbuf = true ∧ s.framer.fidx.toNat < 253 := by decide

theorem witness_PayloadByteOutsideTheBufferFaults :
    let s := inPayloadAt 253#8
    s.fatal = .none ∧ s.framer.fphase = .payload ∧ 253 ≤ s.framer.fidx.toNat := by decide

/-- A state in PAYLOAD that meets the invariants. -/
theorem inPayload_inv : Inv inPayload where
  idleEmpty _ := by decide
  huntCount := by decide
  attemptLen _ := by decide
  bodyStart := by decide
  payloadIndex _ := by decide
  trailerIndex := by decide
  addrSum := by decide
  bodySum _ := by decide
  bufferForm := by decide
  messageFits := by decide
  waitingFits m h := by cases h
  fatalNoMessage _ := by decide

/-- A state in CTRL that meets the invariants. -/
theorem inCtrl_inv : Inv inCtrl where
  idleEmpty _ := by decide
  huntCount := by decide
  attemptLen _ := by decide
  bodyStart _ := by decide
  payloadIndex := by decide
  trailerIndex := by decide
  addrSum := by decide
  bodySum := by decide
  bufferForm := by decide
  messageFits := by decide
  waitingFits m h := by cases h
  fatalNoMessage _ := by decide

/-- A state in STOP, the stop byte offered, that meets the invariants. -/
theorem stopOffered_inv : Inv stopOffered where
  idleEmpty _ := by decide
  huntCount := by decide
  attemptLen _ := by decide
  bodyStart := by decide
  payloadIndex := by decide
  trailerIndex _ := by decide
  addrSum := by decide
  bodySum _ := by decide
  bufferForm := by decide
  messageFits := by decide
  waitingFits m h := by cases h
  fatalNoMessage _ := by decide

/-- A state with a finite capacity and a message in progress that meets the invariants. -/
theorem assemblingCapFour_inv : Inv assemblingCapFour where
  idleEmpty := by decide
  huntCount _ := by decide
  attemptLen := by decide
  bodyStart := by decide
  payloadIndex := by decide
  trailerIndex := by decide
  addrSum := by decide
  bodySum := by decide
  bufferForm := by decide
  messageFits := by decide
  waitingFits m h := by cases h
  fatalNoMessage _ := by decide

theorem witness_PayloadPhaseTakesTheDeclaredBytes :
    Inv inPayload ∧ inPayload.fatal = .none ∧ inPayload.framer.fphase = .payload ∧
      inPayload.framer.fidx.toNat + (List.replicate 7 0xAA#8).length ≤ inPayload.framer.flen.toNat - 2 :=
  ⟨inPayload_inv, by decide⟩

theorem witness_TrailerGivesOneVerdict :
    ((inStop 0x52#8).fatal = .none ∧ (inStop 0x52#8).framer.fphase = .stop ∧ (0x17#8 : Byte) ≠ 0x16#8) ∧
    ((inStop 0x53#8).framer.fchk ≠ (inStop 0x53#8).framer.fsum ∧ (inStop 0x53#8).fatal = .none ∧
      (inStop 0x53#8).framer.fphase = .stop) ∧
    (inStop 0x52#8).framer.fchk = (inStop 0x52#8).framer.fsum := by decide

theorem witness_FrameTrlCompletes :
    (0x53#8 : Byte) ≠ (inStop 0x52#8).framer.fsum ∧ (0x52#8 : Byte) = (inStop 0x52#8).framer.fsum := by decide

theorem witness_EmittedFramesMeetTheirInvariants :
    Inv stopOffered ∧ ∃ t, step stopOffered = .next t ∧ .frameOk ⟨2#8, 0x53#8, 0xFF#8, [], 0x52#8⟩ ∈ t.events :=
  ⟨stopOffered_inv, _, rfl, by decide⟩

theorem witness_AttemptEndsHuntingWithAnEmptyWindow :
    Inv stopOffered ∧ stopOffered.fatal = .none ∧ stopOffered.framer.fphase = .stop := ⟨stopOffered_inv, by decide⟩

theorem witness_AttemptConsumesLenPlusSixBytes :
    betweenFrames State.reset ∧ Memory.wf State.reset.framer.fbuf = true ∧ 2 ≤ (2#8 : Byte).toNat ∧
      (List.replicate 4 0#8 : List Byte).length = (2#8 : Byte).toNat + 2 := by
  refine ⟨⟨rfl, rfl, rfl⟩, ?_⟩
  decide

-- V2: the window holds the noise 00 68 16
theorem witness_AttemptConsumesLenPlusSixBytes_noise :
    noiseInWindow.fatal = .none ∧ noiseInWindow.framer.fphase = .hunt ∧ Memory.wf noiseInWindow.framer.fbuf = true ∧
      2 ≤ (9#8 : Byte).toNat ∧ (List.replicate 11 0#8 : List Byte).length = (9#8 : Byte).toNat + 2 ∧
      ∃ v, runSymbols (byteSyms [0x68#8, 9#8, 9#8]) noiseInWindow = some (v, []) ∧ v.framer.fphase = .hunt :=
  ⟨rfl, rfl, rfl, by decide, by decide, _, rfl, rfl⟩

theorem witness_AttemptConsumesLenPlusSixBytes_ctrl :
    Inv inCtrl ∧ inCtrl.fatal = .none ∧ inCtrl.framer.fphase = .ctrl ∧
      (List.replicate 11 0#8 : List Byte).length = inCtrl.framer.flen.toNat + 2 := ⟨inCtrl_inv, by decide⟩

theorem witness_FrameBytesProduceExactlyOneFrame :
    betweenFrames State.reset ∧ Memory.wf State.reset.framer.fbuf = true ∧ (List.replicate 253 0xA5#8 : List Byte).length ≤ 253 := by
  refine ⟨⟨rfl, rfl, rfl⟩, rfl, ?_⟩
  rw [List.length_replicate]

theorem witness_FlippedPayloadBitIsRejected :
    betweenFrames State.reset ∧ Memory.wf State.reset.framer.fbuf = true ∧ ([0x00#8, 0x01#8] : List Byte).length ≤ 253 ∧
      1 < ([0x00#8, 0x01#8] : List Byte).length ∧ 7 < 8 := by
  refine ⟨⟨rfl, rfl, rfl⟩, ?_⟩
  decide

theorem witness_SegStartsAMessage :
    State.reset.reasm.rstate = .idle ∧ ∀ cap, State.reset.params.msgCap = some cap → ([0xAA#8] : List Byte).length ≤ cap :=
  ⟨rfl, fun _ h => by cases h⟩

theorem witness_SegContinuesTheMessage :
    assemblingCapFour.reasm.rstate = .assembling ∧
      ∀ cap, assemblingCapFour.params.msgCap = some cap → assemblingCapFour.reasm.mbuf.length + ([0xAA#8] : List Byte).length ≤ cap :=
  ⟨rfl, fun _ h => by cases h; decide⟩

theorem witness_SegfEmitsTheMessage :
    (State.reset.reasm.rstate = .idle ∧ ∀ cap, State.reset.params.msgCap = some cap → ([] : List Byte).length ≤ cap) ∧
    (assemblingCapFour.reasm.rstate = .assembling ∧
      ∀ cap, assemblingCapFour.params.msgCap = some cap → assemblingCapFour.reasm.mbuf.length + ([0xAA#8] : List Byte).length ≤ cap) :=
  ⟨⟨rfl, fun _ h => by cases h⟩, rfl, fun _ h => by cases h; decide⟩

theorem witness_MismatchDropsTheMessage :
    ((0#4 : Seq) = (if State.reset.reasm.rstate = .idle then 0#4 else State.reset.reasm.rexp) ∧ (1#4 : Seq) ≠ 0#4) ∧
    ((1#4 : Seq) = (if assemblingOne.reasm.rstate = .idle then 0#4 else assemblingOne.reasm.rexp) ∧ (0#4 : Seq) ≠ 1#4) := by decide

theorem witness_OverflowDropsTheMessage :
    let s : State := { State.reset with params := { msgCap := some 0 } }
    (s.params.msgCap = some 0 ∧ s.reasm.rstate = .idle ∧ 0 < ([0xAA#8] : List Byte).length) ∧
    (assemblingCapFour.params.msgCap = some 4 ∧ assemblingCapFour.reasm.rstate = .assembling ∧
      4 < assemblingCapFour.reasm.mbuf.length + ([0x44#8, 0x55#8] : List Byte).length) ∧
    (Instr.slot (.seg 0#3 0#4 0#8 0#8 []) = .segment ∧ State.reset.params.msgCap = none) := by decide

theorem witness_OverflowDropsTheMessage_infinite :
    ∃ t, exec (.seg 0#3 0#4 0#8 0#8 []) State.reset = .next t ∧ t.events = State.reset.events ++ [] := ⟨_, rfl, rfl⟩

theorem witness_RuntDropsTheMessage : ([0x01#8, 0x01#8] : List Byte).length < 3 := by decide

theorem witness_ContinuationIdentifiersAreIgnored :
    assemblingOne.reasm.rstate = .assembling ∧ (∃ t, exec (.seg 0#3 1#4 0xAA#8 0xBB#8 []) assemblingOne = .next t) ∧
      ∃ t, exec (.segf 0#3 1#4 0xAA#8 0xBB#8 []) assemblingOne = .next t := ⟨rfl, ⟨_, rfl⟩, _, rfl⟩

theorem witness_SegmentsLeaveTheFramer :
    ∃ t, Instr.slot (.seg 0#3 0#4 0x01#8 0x67#8 []) = .segment ∧ exec (.seg 0#3 0#4 0x01#8 0x67#8 []) State.reset = .next t :=
  ⟨_, rfl, rfl⟩

theorem witness_OnlyADeliveryChangesTheReassembler :
    ∃ t, consume (.byte 0x17#8) (inStop 0x52#8) = .next t ∧ ∀ f, .frameOk f ∉ t.events :=
  ⟨_, rfl, fun f h => by cases h with | tail _ h => cases h⟩

theorem witness_SegmentedMessageIsReassembled : betweenMessages State.reset ∧ State.reset.params.msgCap = none :=
  ⟨⟨rfl, rfl, rfl⟩, rfl⟩

theorem witness_EventsOfAStepAreOrdered :
    ∃ t, step stopOffered = .next t ∧ t.events = [.frameOk ⟨2#8, 0x53#8, 0xFF#8, [], 0x52#8⟩, .runtSegment 0] := ⟨_, rfl, by decide⟩

theorem witness_FatalSymbolsStopTheBlock : inPayload.fatal = .none ∧ failed.fatal ≠ .none := by decide

theorem witness_FatalConditionIsSticky : failed.fatal ≠ .none ∧ (nextPins failed).rst = false := by decide

theorem witness_WaitingMessageStallsTheBlock :
    messageWaits.msg = some ⟨0x01#8, 0x67#8, [0xDE#8]⟩ ∧ (nextPins messageWaits).rst = false := by decide

theorem witness_EmittedMessageIsOnThePort :
    ∃ t, step (placeSegment 0x10#8 0x01#8 0x67#8 State.reset) = .next t ∧ .message ⟨0x01#8, 0x67#8, []⟩ ∈ t.events :=
  ⟨_, rfl, by decide⟩

theorem witness_EventPortsShowTheStep : ∃ t, step stopOffered = .next t ∧ (nextPins stopOffered).rst = false ∧
    .runtSegment 0 ∈ t.events := ⟨_, rfl, by decide, by decide⟩

theorem witness_EdgesRefineTheSymbolSteps : Inv stopOffered ∧ ∀ p ∈ stopOffered.pins, p.rst = false :=
  ⟨stopOffered_inv, by decide⟩

theorem witness_FramerIgnoresTheReassembler :
    State.reset.framer = assemblingOne.framer ∧ State.reset.fatal = assemblingOne.fatal ∧
      (∃ t, consume (.byte 0x68#8) State.reset = .next t) ∧ ∃ t, consume (.byte 0x68#8) assemblingOne = .next t :=
  ⟨rfl, rfl, ⟨_, rfl⟩, _, rfl⟩

theorem witness_ResetEdgeResetsTheBlock :
    let s : State := { messageWaits with pins := [{ rst := true, inValid := true }] }
    s.pins = { rst := true, inValid := true } :: [] ∧ ({ rst := true, inValid := true } : Pins).rst = true := by decide

theorem witness_StepKeepsTheInvariants : Inv stopOffered ∧ ∃ t, step stopOffered = .next t := ⟨stopOffered_inv, _, rfl⟩

theorem witness_NoStepStopsFromTheInvariants : Inv inPayload := inPayload_inv

theorem witness_MessageLengthFitsItsWidth : Inv assemblingCapFour ∧ assemblingCapFour.params.msgCap = some 4 :=
  ⟨assemblingCapFour_inv, rfl⟩

theorem witness_ResetBetweenMessagesChangesNoOutput :
    let s : State := { State.reset with framer := { State.reset.framer with flen := 9#8, w3 := 0x68#8, fbuf := [(0, 0xDE#8)] } }
    Memory.wf s.framer.fbuf = true ∧ betweenFrames s ∧ betweenMessages s := ⟨by decide, ⟨rfl, rfl, rfl⟩, rfl, rfl, rfl⟩

theorem witness_SizeFieldIsDecoded :
    (∃ h : 0 < ([0x7F#8] : List Byte).length, ([0x7F#8] : List Byte)[0].toNat ≤ 0x7F) ∧
      (List.replicate 127 0#8 : List Byte).length < 128 := by
  refine ⟨⟨by decide, by decide⟩, ?_⟩
  simp

theorem witness_UnsupportedSecurityModeIsRefused :
    Downstream.securityControl (⟨0x01#8, 0x67#8, shortEnvelope 0x21#8⟩ : LogicalMessage).buf = .ok 0x21#8 ∧
      (0x21#8 : Byte) ≠ 0b00100000#8 := by decide

theorem witness_EnvelopeFieldsStandWhereTheTableSays_short :
    shortTitle.length < 256 ∧ ((0 : Nat) = 0 ∧ (List.replicate 12 0xC0#8 : List Byte).length + 5 ≤ 127 ∧
        [0x11#8] = [BitVec.ofNat 8 ((List.replicate 12 0xC0#8 : List Byte).length + 5)]) ∧
      shortEnvelope 0x20#8 = [0xDB#8, BitVec.ofNat 8 shortTitle.length] ++ shortTitle ++ [0x11#8] ++
        [0x20#8, 0#8, 0#8, 0#8, 0x2A#8] ++ List.replicate 12 0xC0#8 ++ [] ∧
      (0x20#8 : Byte) = 0x20#8 ∧ shortTitle.length = 8 := by decide

-- a title of one byte, and the size field 82 01 04, that is 260
theorem witness_EnvelopeFieldsStandWhereTheTableSays_long :
    ([0x4B#8] : List Byte).length < 256 ∧ (∃ bs : List Byte, bs.length = 2 ∧ 2 < 128 ∧
        [0x82#8, 0x01#8, 0x04#8] = BitVec.ofNat 8 (0x80 + 2) :: bs ∧
        ((List.range 2).map fun i => (bs.getD i 0#8).toNat * 256 ^ (2 - 1 - i)).sum = (List.replicate 255 0xC0#8 : List Byte).length + 5) ∧
      ([0x4B#8] : List Byte).length ≠ 8 := by
  refine ⟨by decide, ⟨[0x01#8, 0x04#8], rfl, by decide, by decide, ?_⟩, by decide⟩
  rw [List.length_replicate]
  decide

theorem witness_EnvelopeAccessIsBoundsChecked :
    ([] : List Byte).length = 0 ∧ (0 < 1 ∧ ([] : List Byte).length < 0 + 1) ∧ ([0xDB#8] : List Byte).length ≤ 1 ∧
      (Downstream.titleLength [0xDB#8, 1#8] = .ok 1 ∧ ([0xDB#8, 1#8] : List Byte).length < 2 + 1) ∧
      (Downstream.titleLength [0xDB#8, 0#8, 0x81#8] = .ok 0 ∧ 0x80 ≤ (0x81#8 : Byte).toNat ∧
        ([0xDB#8, 0#8, 0x81#8] : List Byte).length < 2 + 0 + 1 + ((0x81#8 : Byte).toNat - 0x80)) := by decide

theorem witness_EnvelopeAccessIsBoundsChecked_behindTheSizeField :
    (Downstream.sizeField [0xDB#8, 0#8, 5#8] = .ok (0, 5) ∧ ([0xDB#8, 0#8, 5#8] : List Byte).length ≤ 2 + 0 + 1 + 0) ∧
      (Downstream.sizeField [0xDB#8, 0#8, 5#8, 0x20#8, 0#8, 0#8, 0#8] = .ok (0, 5) ∧
        ([0xDB#8, 0#8, 5#8, 0x20#8, 0#8, 0#8, 0#8] : List Byte).length < 2 + 0 + 1 + 0 + 5) ∧
      (Downstream.sizeField [0xDB#8, 0#8, 0x04#8] = .ok (0, 4) ∧ 4 < 5) ∧
      (Downstream.sizeField [0xDB#8, 0#8, 6#8, 0x20#8, 0#8, 0#8, 0#8, 0#8] = .ok (0, 6) ∧ 5 < 6 ∧
        ([0xDB#8, 0#8, 6#8, 0x20#8, 0#8, 0#8, 0#8, 0#8] : List Byte).length < 2 + 0 + 1 + 0 + 6) := by decide

theorem witness_EnvelopeAccessIsBoundsChecked_decrypt :
    Downstream.securityControl [0xDB#8, 0#8, 5#8] = .error (.pastEnd 3) ∧
      (Downstream.securityControl [0xDB#8, 0#8, 5#8, 0x20#8, 0#8, 0#8, 0#8] = .ok 0x20#8 ∧
        Downstream.counterBytes [0xDB#8, 0#8, 5#8, 0x20#8, 0#8, 0#8, 0#8] = .error (.pastEnd 7)) ∧
      (Downstream.securityControl (shortEnvelope 0x20#8).dropLast = .ok 0x20#8 ∧
        Downstream.titleLength (shortEnvelope 0x20#8).dropLast = .ok 8 ∧
        Downstream.counterBytes (shortEnvelope 0x20#8).dropLast = .ok [0#8, 0#8, 0#8, 0x2A#8] ∧
        Downstream.ciphertext (shortEnvelope 0x20#8).dropLast = .error (.pastEnd 27)) := by decide

end Sys2Proof.Machine
end

section
/-! SUPPORT. The frame buffer's index stays inside the buffer, so no step stops (O45). -/
namespace Sys2Proof.Machine

/-- The part of R34 that every byte keeps by itself and that keeps the writes of PAYLOAD inside the frame buffer: no byte is stored
before PAYLOAD (R17), and in PAYLOAD fewer than declared (R34 (c)). -/
structure BodyIndexed (f : Framer) : Prop where
  start : f.fphase = .ctrl ∨ f.fphase = .addr → f.fidx = 0#8
  below : f.fphase = .payload → f.fidx.toNat < f.flen.toNat - Config.LEN_OVERHEAD

theorem Inv.bodyIndexed {s : State} (h : Inv s) : BodyIndexed s.framer where
  start := h.bodyStart
  below hp := (h.payloadIndex hp).2

/-- Outside CTRL, ADDR and PAYLOAD the index is under no condition. -/
theorem BodyIndexed.of_phase {f : Framer} (h : f.fphase = .hunt ∨ f.fphase = .chk ∨ f.fphase = .stop) : BodyIndexed f := by
  rcases h with h | h | h <;> exact ⟨by simp [h], by simp [h]⟩

/-- A declared length is one byte, so an index below the payload length is an offset of the buffer (R18, R90). -/
theorem BodyIndexed.inBuffer {f : Framer} (h : BodyIndexed f) (hp : f.fphase = .payload) : f.fidx.toNat < Config.PAYLOAD_MAX := by
  have hi := h.below hp
  have hl := f.flen.isLt
  simp only [Config.PAYLOAD_MAX, Config.LEN_MAX, Config.LEN_OVERHEAD] at hi ⊢
  omega

theorem huntByte_next {s : State} (hp : s.framer.fphase = .hunt) (b : Byte) :
    ∃ t, huntByte b s = .next t ∧ BodyIndexed t.framer ∧ t.pins = s.pins := by
  rw [huntByte_eq]
  split
  · exact ⟨_, rfl, ⟨fun _ => rfl, nofun⟩, rfl⟩
  · exact ⟨_, rfl, .of_phase (.inl hp), rfl⟩

theorem addrByte_bodyIndexed {s : State} (h : BodyIndexed s.framer) (hp : s.framer.fphase = .addr) (b : Byte) :
    BodyIndexed (addrByte b s).framer := by
  have h0 := h.start (.inr hp)
  by_cases hl : Config.LEN_OVERHEAD < s.framer.flen.toNat
  · refine ⟨by simp [addrByte, hl], fun _ => ?_⟩
    simp only [addrByte, h0, BitVec.toNat_zero]
    omega
  · exact .of_phase (.inr (.inl (if_neg hl)))

theorem payloadByte_next {s : State} (h : BodyIndexed s.framer) (hp : s.framer.fphase = .payload) (b : Byte) :
    ∃ t, payloadByte b s = .next t ∧ BodyIndexed t.framer ∧ t.pins = s.pins := by
  have hb := h.inBuffer hp
  refine ⟨_, if_pos hb, ?_, rfl⟩
  by_cases hl : s.framer.fidx.toNat + 1 = payloadLen s
  · exact .of_phase (.inr (.inl (if_pos hl)))
  · refine ⟨by simp [payloadCount, hl], fun _ => ?_⟩
    have hi := h.below hp
    have hs : (s.framer.fidx + 1#8).toNat = s.framer.fidx.toNat + 1 := by
      simp only [Config.PAYLOAD_MAX, Config.LEN_MAX, Config.LEN_OVERHEAD] at hb
      bv_omega
    simp only [payloadCount, hs]
    simp only [payloadLen] at hl
    omega

/-- The trailer answers a next state and hands the framer back to HUNT (R87). -/
theorem execFrameTrl_next (chk : Byte) (s : State) :
    ∃ t, execFrameTrl chk s = .next t ∧ t.framer = { s.framer with fphase := .hunt } ∧ t.pins = s.pins := by
  rcases execFrameTrl_cases chk s with ⟨-, e⟩ | ⟨-, e⟩
  · exact ⟨_, e, by simp, by simp⟩
  · obtain ⟨t, -, ht, -⟩ := deliver_next (linkFrame chk s).payload (raise (.frameOk (linkFrame chk s)) (toHunt s))
    obtain ⟨hf, -, -, -, hp, -⟩ := deliver_frame ht
    exact ⟨t, e.trans ht, by simp [hf], by simp [hp]⟩

/-- A symbol answers a next state, keeps the index in its bounds, and leaves the coming pins (R80, R90). -/
theorem consume_next {s : State} (h : BodyIndexed s.framer) (x : InSym) :
    ∃ t, consume x s = .next t ∧ BodyIndexed t.framer ∧ t.pins = s.pins := by
  by_cases hf : s.fatal = .none
  swap
  · exact ⟨_, consume_fatal hf x, h, rfl⟩
  cases x with
  | eos => exact ⟨_, consume_eos hf, h, rfl⟩
  | err => exact ⟨_, consume_err hf, h, rfl⟩
  | byte b =>
    cases hp : s.framer.fphase with
    | hunt => rw [consume_hunt hf hp]; exact huntByte_next (s := clearEvents s) hp b
    | ctrl => exact ⟨_, consume_ctrl hf hp b, ⟨fun _ => h.start (.inl hp), nofun⟩, rfl⟩
    | addr => exact ⟨_, consume_addr hf hp b, addrByte_bodyIndexed (s := clearEvents s) h hp b, rfl⟩
    | payload => rw [consume_payload hf hp]; exact payloadByte_next (s := clearEvents s) h hp b
    | chk => exact ⟨_, consume_chk hf hp b, .of_phase (.inr (.inr rfl)), rfl⟩
    | stop =>
      rw [consume_stop hf hp]
      split
      · obtain ⟨t, ht, e, hq⟩ := execFrameTrl_next s.framer.fchk (clearEvents s)
        exact ⟨t, ht, .of_phase (.inl (by rw [e])), hq⟩
      · exact ⟨_, rfl, .of_phase (.inl rfl), rfl⟩

/-- Settles O45: an edge resets, idles, or consumes a symbol, and the invariants keep the index of PAYLOAD inside the buffer. -/
theorem noStepStopsFromTheInvariants : Obligations.NoStepStopsFromTheInvariants := by
  intro s hs
  rcases edge_cases (nextPins s) (takePins s) with ⟨-, e⟩ | ⟨-, -, -, e⟩ | ⟨-, -, e⟩
  · exact ⟨_, e⟩
  · obtain ⟨t, ht, -⟩ := consume_next (s := takePins s) hs.bodyIndexed (symbolOf (nextPins s))
    exact ⟨t, e.trans ht⟩
  · exact ⟨_, e⟩

end Sys2Proof.Machine
end

section
/-! SUPPORT. A symbol reads neither the message port nor the model's own fields, so edges refine the steps on symbols (O39). -/
namespace Sys2Proof.Machine

/-- The state but for what no symbol's effect reads: the message port, the coming pins, and the counter of the free values. -/
def forgetPorts (s : State) : State := { s with msg := none, pins := [], freeIdx := 0 }

/-- An answer, up to what no symbol reads. -/
def forgetIn : Result → Result
  | .next s => .next (forgetPorts s)
  | .fault r => .fault r
  | .refused r => .refused r

theorem forgetIn_execSeg (rsv : BitVec 3) (seq : Seq) (src dst : Byte) (data : List Byte) (s : State) :
    forgetIn (execSeg rsv seq src dst data (forgetPorts s)) = forgetIn (execSeg rsv seq src dst data s) := by
  have he : expectation (forgetPorts s) = expectation s := rfl
  have ha : assembled src dst data (forgetPorts s) = assembled src dst data s := rfl
  have hp : (forgetPorts s).params = s.params := rfl
  have hr : (forgetPorts s).reasm = s.reasm := rfl
  simp only [execSeg, he, ha, hp, hr]
  split
  · rfl
  · split
    · rfl
    · cases s.reasm.rstate <;> rfl

theorem forgetIn_execSegf (rsv : BitVec 3) (seq : Seq) (src dst : Byte) (data : List Byte) (s : State) :
    forgetIn (execSegf rsv seq src dst data (forgetPorts s)) = forgetIn (execSegf rsv seq src dst data s) := by
  have he : expectation (forgetPorts s) = expectation s := rfl
  have ha : assembled src dst data (forgetPorts s) = assembled src dst data s := rfl
  have hp : (forgetPorts s).params = s.params := rfl
  simp only [execSegf, he, ha, hp]
  split
  · rfl
  · split <;> rfl

theorem forgetIn_deliver (p : List Byte) (s : State) :
    forgetIn (deliver p (forgetPorts s)) = forgetIn (deliver p s) := by
  unfold deliver
  cases parseSegment p with
  | error n => rfl
  | ok g =>
    obtain ⟨rsv, fin, seq, src, dst, data⟩ := g
    cases fin
    · exact forgetIn_execSeg rsv seq src dst data s
    · exact forgetIn_execSegf rsv seq src dst data s

theorem forgetIn_execFrameTrl (chk : Byte) (s : State) :
    forgetIn (execFrameTrl chk (forgetPorts s)) = forgetIn (execFrameTrl chk s) := by
  have hf : (forgetPorts s).framer = s.framer := rfl
  simp only [execFrameTrl, hf]
  split
  · rfl
  · exact forgetIn_deliver (linkFrame chk s).payload (raise (.frameOk (linkFrame chk s)) (toHunt s))

theorem forgetIn_huntByte (b : Byte) (s : State) :
    forgetIn (huntByte b (forgetPorts s)) = forgetIn (huntByte b s) := by
  have hf : (forgetPorts s).framer = s.framer := rfl
  rw [huntByte_eq, huntByte_eq, hf]
  split <;> rfl

theorem forgetIn_payloadByte (b : Byte) (s : State) :
    forgetIn (payloadByte b (forgetPorts s)) = forgetIn (payloadByte b s) := by
  have hf : (forgetPorts s).framer = s.framer := rfl
  simp only [payloadByte, writeFrameBuffer, hf]
  split <;> rfl

/-- What a symbol does depends on no port and on no field of the model's own (R5, R32). -/
theorem forgetIn_consume (x : InSym) (s : State) : forgetIn (consume x (forgetPorts s)) = forgetIn (consume x s) := by
  by_cases hf : s.fatal = .none
  swap
  · rw [consume_fatal hf, consume_fatal (s := forgetPorts s) hf]; rfl
  cases x with
  | eos => rw [consume_eos hf, consume_eos (s := forgetPorts s) hf]; rfl
  | err => rw [consume_err hf, consume_err (s := forgetPorts s) hf]; rfl
  | byte b =>
    cases hp : s.framer.fphase with
    | hunt =>
      rw [consume_hunt hf hp, consume_hunt (s := forgetPorts s) hf hp]
      exact forgetIn_huntByte b (clearEvents s)
    | ctrl => rw [consume_ctrl hf hp, consume_ctrl (s := forgetPorts s) hf hp]; rfl
    | addr => rw [consume_addr hf hp, consume_addr (s := forgetPorts s) hf hp]; rfl
    | payload =>
      rw [consume_payload hf hp, consume_payload (s := forgetPorts s) hf hp]
      exact forgetIn_payloadByte b (clearEvents s)
    | chk => rw [consume_chk hf hp, consume_chk (s := forgetPorts s) hf hp]; rfl
    | stop =>
      rw [consume_stop hf hp, consume_stop (s := forgetPorts s) hf hp]
      split
      · exact forgetIn_execFrameTrl s.framer.fchk (clearEvents s)
      · rfl

/-- The registers and parameters that the next symbols meet, and the `frm_*` registers: what an edge and a step on a symbol agree on. -/
def registers (s : State) : State := forgetPorts (clearEvents s)

/-- From equal registers a symbol raises the same events and leaves equal registers. -/
theorem consume_of_registers_eq {s v t : State} {x : InSym} (hr : registers s = registers v) (h : consume x s = .next t) :
    ∃ w, consume x v = .next w ∧ w.events = t.events ∧ registers t = registers w := by
  have hv : forgetIn (consume x v) = .next (forgetPorts t) :=
    calc forgetIn (consume x v) = forgetIn (consume x (registers v)) := (forgetIn_consume x (clearEvents v)).symm
      _ = forgetIn (consume x (registers s)) := by rw [hr]
      _ = forgetIn (consume x s) := forgetIn_consume x (clearEvents s)
      _ = .next (forgetPorts t) := by rw [h]; rfl
  cases hw : consume x v with
  | next w =>
    rw [hw] at hv
    have e : forgetPorts w = forgetPorts t := Host.Outcome.next.inj hv
    have he : (forgetPorts w).events = (forgetPorts t).events := by rw [e]
    have hc : clearEvents (forgetPorts w) = clearEvents (forgetPorts t) := by rw [e]
    exact ⟨w, rfl, he, hc.symm⟩
  | fault r => rw [hw] at hv; cases hv
  | refused r => rw [hw] at hv; cases hv

@[simp] theorem takePins_inReady (s : State) : (takePins s).inReady = s.inReady := rfl

/-- One edge without reset does what the symbols it consumes do, one or none, and keeps the index in its bounds (R29, R32). -/
theorem step_refines {s v : State} (hi : BodyIndexed s.framer) (hr : (nextPins s).rst = false) (hv : registers s = registers v) :
    ∃ t, step s = .next t ∧ BodyIndexed t.framer ∧ t.pins = s.pins.tail ∧
      ((consumedNext s = [] ∧ t.events = [] ∧ registers t = registers v) ∨
        ∃ x w, consumedNext s = [x] ∧ consume x v = .next w ∧ w.events = t.events ∧ registers t = registers w) := by
  rcases edge_cases (nextPins s) (takePins s) with ⟨h, -⟩ | ⟨-, hval, hrdy, e⟩ | ⟨-, hno, e⟩
  · rw [hr] at h; cases h
  · obtain ⟨t, ht, hb, hq⟩ := consume_next (s := takePins s) hi (symbolOf (nextPins s))
    obtain ⟨w, hw, hev, hreg⟩ := consume_of_registers_eq (s := takePins s) hv ht
    rw [takePins_inReady] at hrdy
    have hc : consumedNext s = [symbolOf (nextPins s)] := by simp [consumedNext, hr, hval, hrdy]
    exact ⟨t, e.trans ht, hb, hq, .inr ⟨_, w, hc, hw, hev, hreg⟩⟩
  · rw [takePins_inReady] at hno
    have hc : consumedNext s = [] := by simp [consumedNext, hr, hno]
    exact ⟨_, e, hi, rfl, .inl ⟨hc, rfl, hv⟩⟩

/-- Without reset in the coming samples, the next sample has none either: past the end of the list the pins are idle (log 1). -/
theorem nextPins_rst {s : State} (h : ∀ p ∈ s.pins, p.rst = false) : (nextPins s).rst = false := by
  unfold nextPins
  cases hp : s.pins with
  | nil => rfl
  | cons p ps => exact h p (by simp [hp])

/-- Edges without reset, from registers equal to those of a run on symbols, stay in step with the run on the symbols they consume. -/
theorem runEdges_refines (n : Nat) {s v : State} (hi : BodyIndexed s.framer) (hp : ∀ p ∈ s.pins, p.rst = false)
    (hv : registers s = registers v) :
    ∃ tr u, runEdges n s = some tr ∧ runSymbols tr.consumed v = some (u, tr.events) ∧ registers tr.final = registers u := by
  induction n generalizing s v with
  | zero => exact ⟨⟨s, [], []⟩, v, rfl, rfl, hv⟩
  | succ n ih =>
    obtain ⟨t, ht, hb, hq, hs⟩ := step_refines hi (nextPins_rst hp) hv
    have hp' : ∀ p ∈ t.pins, p.rst = false := fun p hm => hp p (List.mem_of_mem_tail (hq ▸ hm))
    rcases hs with ⟨hc, hev, hreg⟩ | ⟨x, w, hc, hw, hev, hreg⟩
    · obtain ⟨tr, u, hrun, hsym, hfin⟩ := ih hb hp' hreg
      exact ⟨tr, u, by simp [runEdges, ht, hrun, hc, hev], hsym, hfin⟩
    · obtain ⟨tr, u, hrun, hsym, hfin⟩ := ih hb hp' hreg
      exact ⟨⟨tr.final, t.events ++ tr.events, x :: tr.consumed⟩, u, by simp [runEdges, ht, hrun, hc],
        hev ▸ runSymbols_cons hw hsym, hfin⟩

/-- Equal registers are equal framers, reassemblers, fatal conditions and `frm_*` registers. -/
theorem sameBlock_of_registers_eq {s t : State} (h : registers s = registers t) : sameBlock s t ∧ s.frm = t.frm := by
  simp only [registers, forgetPorts, clearEvents, State.mk.injEq] at h
  obtain ⟨hf, hr, hfat, -, hfrm, -⟩ := h
  exact ⟨⟨hf, hr, hfat⟩, hfrm⟩

/-- Settles O39, by induction on the number of edges: the run of edges and the run on the consumed symbols keep equal registers. -/
theorem edgesRefineTheSymbolSteps : Obligations.EdgesRefineTheSymbolSteps := by
  intro n s hs hp
  obtain ⟨tr, u, hrun, hsym, hreg⟩ := runEdges_refines n hs.bodyIndexed hp rfl
  obtain ⟨hblock, hfrm⟩ := sameBlock_of_registers_eq hreg
  exact ⟨tr, u, hrun, hsym, hblock, hfrm⟩

end Sys2Proof.Machine
end

section
/-! SUPPORT. The invariants of R34, phase by phase, and that every step keeps them (O43, O44, O46). -/
namespace Sys2Proof.Machine

/-- R34 (b), in a frame attempt: the window is empty and the declared length is one that a header can have. -/
def AttemptOpen (f : Framer) : Prop := f.wcnt = 0 ∧ 2 ≤ f.flen.toNat

/-- R34 (d), from PAYLOAD on: the running sum covers control byte, address byte and the payload bytes stored so far. -/
def BodySummed (f : Framer) : Prop := f.fsum = frameChecksum f.fctrl f.faddr (f.fbuf.prefixBytes f.fidx.toNat)

/-- R34 (b) to (d) and R17, by the phase: what the framer's registers hold between two bytes. -/
def PhaseInv : FPhase → Framer → Prop
  | .hunt, f => f.wcnt ≤ 4
  | .ctrl, f => AttemptOpen f ∧ f.fidx = 0#8
  | .addr, f => AttemptOpen f ∧ f.fidx = 0#8 ∧ f.fsum = f.fctrl
  | .payload, f => AttemptOpen f ∧ f.fidx.toNat < f.flen.toNat - Config.LEN_OVERHEAD ∧ BodySummed f
  | .chk, f => AttemptOpen f ∧ f.fidx.toNat = f.flen.toNat - Config.LEN_OVERHEAD ∧ BodySummed f
  | .stop, f => AttemptOpen f ∧ f.fidx.toNat = f.flen.toNat - Config.LEN_OVERHEAD ∧ BodySummed f

/-- The invariants of the framer alone. -/
structure FramerInv (f : Framer) : Prop where
  phase : PhaseInv f.fphase f
  buffer : Memory.wf f.fbuf = true ∧ Memory.inRange f.fbuf = true

/-- The invariants of the reassembler and of the message port (R34 (a), R108). -/
structure MessageInv (s : State) : Prop where
  idle : s.reasm.rstate = .idle → s.reasm.rexp = 0#4 ∧ s.mlen = 0
  fits : exceedsCap s.params s.mlen = false
  waiting : ∀ m, s.msg = some m → exceedsCap s.params m.buf.length = false

theorem Inv.framerInv {s : State} (h : Inv s) : FramerInv s.framer where
  phase := by
    cases hp : s.framer.fphase with
    | hunt => exact h.huntCount hp
    | ctrl => exact ⟨h.attemptLen (by simp [hp]), h.bodyStart (.inl hp)⟩
    | addr => exact ⟨h.attemptLen (by simp [hp]), h.bodyStart (.inr hp), h.addrSum hp⟩
    | payload => exact ⟨h.attemptLen (by simp [hp]), (h.payloadIndex hp).2, h.bodySum (.inl hp)⟩
    | chk => exact ⟨h.attemptLen (by simp [hp]), h.trailerIndex (.inl hp), h.bodySum (.inr (.inl hp))⟩
    | stop => exact ⟨h.attemptLen (by simp [hp]), h.trailerIndex (.inr hp), h.bodySum (.inr (.inr hp))⟩
  buffer := h.bufferForm

theorem Inv.messageInv {s : State} (h : Inv s) : MessageInv s := ⟨h.idleEmpty, h.messageFits, h.waitingFits⟩

/-- The invariants of R34 are those of the framer, those of the messages, and that no message waits after a fatal symbol (C8). -/
theorem Inv.of_parts {s : State} (hf : FramerInv s.framer) (hm : MessageInv s) (hn : s.fatal ≠ .none → s.msg = none) : Inv s := by
  have of_phase : ∀ {p}, s.framer.fphase = p → PhaseInv p s.framer := fun hp => hp ▸ hf.phase
  exact {
    idleEmpty := hm.idle
    huntCount := of_phase
    attemptLen := fun hp => by
      cases hq : s.framer.fphase with
      | hunt => exact absurd hq hp
      | _ => exact (of_phase hq).1
    bodyStart := fun hp => hp.elim (fun hp => (of_phase hp).2) (fun hp => (of_phase hp).2.1)
    payloadIndex := fun hp => by
      obtain ⟨-, hi, -⟩ := of_phase hp
      exact ⟨Nat.lt_of_sub_pos (Nat.zero_lt_of_lt hi), hi⟩
    trailerIndex := fun hp => hp.elim (fun hp => (of_phase hp).2.1) (fun hp => (of_phase hp).2.1)
    addrSum := fun hp => (of_phase hp).2.2
    bodySum := fun hp => by rcases hp with hp | hp | hp <;> exact (of_phase hp).2.2
    bufferForm := hf.buffer
    messageFits := hm.fits
    waitingFits := hm.waiting
    fatalNoMessage := hn }

/-! ## Reset -/

theorem exceedsCap_zero (p : Params) : exceedsCap p 0 = false := by
  unfold exceedsCap
  cases p.msgCap with
  | none => rfl
  | some cap => simp

/-- An edge with `rst` = 1 establishes the invariants in any state (R29, R170). -/
theorem resetBlock_inv (s : State) : Inv (resetBlock s) :=
  .of_parts ⟨Nat.zero_le 4, rfl, rfl⟩ ⟨fun _ => ⟨rfl, rfl⟩, exceedsCap_zero s.params, nofun⟩ (fun _ => rfl)

/-- Settles O43: the state after reset is the one a reset edge leaves. -/
theorem invariantsHoldAtReset : Obligations.InvariantsHoldAtReset := resetBlock_inv State.reset

/-! ## What a symbol does to the framer's invariants -/

/-- The end of an attempt leaves an invariant of HUNT, the window being empty (R87, R89). -/
theorem toHunt_framerInv {f : Framer} (h : FramerInv f) (hp : f.fphase = .stop) : FramerInv { f with fphase := .hunt } := by
  obtain ⟨⟨hw, -⟩, -⟩ : PhaseInv .stop f := hp ▸ h.phase
  exact ⟨show f.wcnt ≤ 4 by omega, h.buffer⟩

theorem huntByte_framerInv {b : Byte} {s t : State} (h : FramerInv s.framer) (hp : s.framer.fphase = .hunt)
    (ht : huntByte b s = .next t) : FramerInv t.framer := by
  rw [huntByte_eq] at ht
  split at ht <;> cases ht
  · rename_i hdr
    obtain ⟨-, -, -, -, hlen⟩ := hdr
    exact ⟨⟨⟨rfl, hlen⟩, rfl⟩, h.buffer⟩
  · have hunting : PhaseInv .hunt (huntShift b s).framer := Nat.min_le_right ..
    exact ⟨hp ▸ hunting, h.buffer⟩

theorem ctrlByte_framerInv {s : State} (h : FramerInv s.framer) (hp : s.framer.fphase = .ctrl) (b : Byte) :
    FramerInv (ctrlByte b s).framer := by
  obtain ⟨hopen, hidx⟩ : PhaseInv .ctrl s.framer := hp ▸ h.phase
  exact ⟨⟨hopen, hidx, rfl⟩, h.buffer⟩

theorem addrByte_framerInv {s : State} (h : FramerInv s.framer) (hp : s.framer.fphase = .addr) (b : Byte) :
    FramerInv (addrByte b s).framer := by
  obtain ⟨hopen, hidx, hsum⟩ : PhaseInv .addr s.framer := hp ▸ h.phase
  have summed : BodySummed (addrByte b s).framer := by
    simp [BodySummed, addrByte, hidx, hsum, frameChecksum, byteSum]
  refine ⟨?_, h.buffer⟩
  by_cases hl : Config.LEN_OVERHEAD < s.framer.flen.toNat
  · have next : PhaseInv .payload (addrByte b s).framer :=
      ⟨hopen, by simpa [addrByte, hidx] using hl, summed⟩
    simpa [addrByte, hl] using next
  · have next : PhaseInv .chk (addrByte b s).framer :=
      ⟨hopen, by simp only [addrByte, hidx, BitVec.toNat_zero]; omega, summed⟩
    simpa [addrByte, hl] using next

/-- One more payload byte adds itself to the checksum (R61, R85). -/
theorem frameChecksum_append_byte (c a b : Byte) (p : List Byte) :
    frameChecksum c a (p ++ [b]) = frameChecksum c a p + b := by
  simp [frameChecksum, byteSum, BitVec.add_assoc]

/-- An offset of the frame buffer is below 255, so the index does not wrap (R17, R90). -/
theorem toNat_add_one_of_inBuffer {i : Byte} (h : i.toNat < Config.PAYLOAD_MAX) : (i + 1#8).toNat = i.toNat + 1 := by
  simp only [Config.PAYLOAD_MAX, Config.LEN_MAX, Config.LEN_OVERHEAD] at h
  bv_omega

theorem payloadByte_framerInv {b : Byte} {s t : State} (h : FramerInv s.framer) (hp : s.framer.fphase = .payload)
    (ht : payloadByte b s = .next t) : FramerInv t.framer := by
  obtain ⟨hopen, hidx, hsum⟩ : PhaseInv .payload s.framer := hp ▸ h.phase
  obtain ⟨hin, rfl⟩ := writeFrameBuffer_next ht
  have hi := toNat_add_one_of_inBuffer hin
  obtain ⟨hwf, hrange⟩ := h.buffer
  refine ⟨?_, Memory.wf_write _ _ _ hwf, Memory.inRange_write _ _ _ hrange hin⟩
  have summed : s.framer.fsum + b = frameChecksum s.framer.fctrl s.framer.faddr
      ((s.framer.fbuf.write s.framer.fidx.toNat b).prefixBytes (s.framer.fidx + 1#8).toNat) := by
    rw [hi, Memory.prefixBytes_write _ _ _ hwf, frameChecksum_append_byte, ← hsum]
  by_cases hl : s.framer.fidx.toNat + 1 = payloadLen s
  · simp only [payloadCount, if_pos hl]
    exact ⟨hopen, hi.trans hl, summed⟩
  · simp only [payloadCount, if_neg hl]
    exact ⟨hopen, hi.trans_lt (Nat.lt_of_le_of_ne hidx hl), summed⟩

/-- A symbol keeps the framer's invariants (R34 (b) to (d)). -/
theorem consume_framerInv {x : InSym} {s t : State} (h : FramerInv s.framer) (ht : consume x s = .next t) :
    FramerInv t.framer := by
  by_cases hf : s.fatal = .none
  swap
  · rw [consume_fatal hf] at ht; cases ht; exact h
  cases x with
  | eos => rw [consume_eos hf] at ht; cases ht; exact h
  | err => rw [consume_err hf] at ht; cases ht; exact h
  | byte b =>
    cases hp : s.framer.fphase with
    | hunt => rw [consume_hunt hf hp] at ht; exact huntByte_framerInv (s := clearEvents s) h hp ht
    | ctrl => rw [consume_ctrl hf hp] at ht; cases ht; exact ctrlByte_framerInv (s := clearEvents s) h hp b
    | addr => rw [consume_addr hf hp] at ht; cases ht; exact addrByte_framerInv (s := clearEvents s) h hp b
    | payload => rw [consume_payload hf hp] at ht; exact payloadByte_framerInv (s := clearEvents s) h hp ht
    | chk =>
      rw [consume_chk hf hp] at ht; cases ht
      have hchk : PhaseInv .chk s.framer := hp ▸ h.phase
      exact ⟨hchk, h.buffer⟩
    | stop =>
      rw [consume_stop hf hp] at ht
      split at ht
      · obtain ⟨u, hu, hfr, -⟩ := execFrameTrl_next s.framer.fchk (clearEvents s)
        cases hu.symm.trans ht
        exact hfr ▸ toHunt_framerInv h hp
      · cases ht; exact toHunt_framerInv h hp

/-! ## What a symbol does to the messages' invariants -/

theorem MessageInv.congr {s t : State} (h : MessageInv s) (hr : t.reasm = s.reasm) (hm : t.msg = s.msg)
    (hp : t.params = s.params) : MessageInv t where
  idle := by simpa only [State.mlen, hr] using h.idle
  fits := by simpa only [State.mlen, hr, hp] using h.fits
  waiting := by simpa only [hm, hp] using h.waiting

theorem toIdle_messageInv {s : State} (h : MessageInv s) : MessageInv (toIdle s) :=
  ⟨fun _ => ⟨rfl, rfl⟩, exceedsCap_zero s.params, h.waiting⟩

/-- An error event drops the message in progress and moves no waiting one (R106 to R108). -/
theorem dropWith_messageInv {s : State} (h : MessageInv s) {e : OutEvent} (he : e.eventClass = .recoverable) :
    MessageInv (dropWith e s) := by
  obtain ⟨-, hm⟩ := raise_ports_of_not_result (toIdle s) e (by simp [he])
  exact (toIdle_messageInv h).congr (raise_reasm ..) hm (raise_params ..)

/-- A delivery keeps the invariants of the messages, by what it did (R103, R104, R106 to R108). -/
theorem deliver_messageInv {p : List Byte} {s t : State} (h : MessageInv s) (ht : deliver p s = .next t) : MessageInv t := by
  rcases deliver_cases p s with ⟨n, -, e⟩ | ⟨q, -, e⟩ | e | ⟨src, dst, data, hc, -, e⟩ | ⟨data, hc, hr, e⟩ | ⟨m, hc, e⟩ <;>
    cases e.symm.trans ht
  · exact dropWith_messageInv h rfl
  · exact dropWith_messageInv h rfl
  · exact dropWith_messageInv h rfl
  · exact ⟨nofun, hc, h.waiting⟩
  · exact ⟨fun hi => by simp [hr] at hi, hc, h.waiting⟩
  · exact ⟨fun _ => ⟨rfl, rfl⟩, exceedsCap_zero s.params, fun m' hm => by cases hm; exact hc⟩

/-- A symbol leaves the reassembler and the message port, or delivers a payload without a fatal condition (R100, R112). -/
theorem consume_messages {x : InSym} {s t : State} (ht : consume x s = .next t) :
    (t.reasm = s.reasm ∧ t.msg = s.msg ∧ t.params = s.params) ∨
    ∃ p u, deliver p u = .next t ∧ u.reasm = s.reasm ∧ u.msg = s.msg ∧ u.params = s.params ∧ u.fatal = .none := by
  by_cases hf : s.fatal = .none
  swap
  · rw [consume_fatal hf] at ht; cases ht; exact .inl ⟨rfl, rfl, rfl⟩
  cases x with
  | eos => rw [consume_eos hf] at ht; cases ht; exact .inl ⟨rfl, rfl, rfl⟩
  | err => rw [consume_err hf] at ht; cases ht; exact .inl ⟨rfl, rfl, rfl⟩
  | byte b =>
    cases hp : s.framer.fphase with
    | hunt =>
      rw [consume_hunt hf hp, huntByte_eq] at ht
      split at ht <;> cases ht <;> exact .inl ⟨rfl, rfl, rfl⟩
    | ctrl => rw [consume_ctrl hf hp] at ht; cases ht; exact .inl ⟨rfl, rfl, rfl⟩
    | addr => rw [consume_addr hf hp] at ht; cases ht; exact .inl ⟨rfl, rfl, rfl⟩
    | payload =>
      rw [consume_payload hf hp] at ht
      obtain ⟨-, rfl⟩ := writeFrameBuffer_next ht
      exact .inl ⟨rfl, rfl, rfl⟩
    | chk => rw [consume_chk hf hp] at ht; cases ht; exact .inl ⟨rfl, rfl, rfl⟩
    | stop =>
      rw [consume_stop hf hp] at ht
      split at ht
      · rcases execFrameTrl_cases s.framer.fchk (clearEvents s) with ⟨-, e⟩ | ⟨-, e⟩ <;> rw [e] at ht
        · cases ht; exact .inl ⟨rfl, rfl, rfl⟩
        · exact .inr ⟨_, _, ht, rfl, rfl, rfl, hf⟩
      · cases ht; exact .inl ⟨rfl, rfl, rfl⟩

/-- A symbol consumed while no message waits keeps the invariants: only a delivery puts a message on the port, and it leaves the
fatal condition, which is none (R29, C8). -/
theorem consume_inv {x : InSym} {s t : State} (h : Inv s) (hmsg : s.msg = none) (ht : consume x s = .next t) : Inv t := by
  have hf : FramerInv t.framer := consume_framerInv h.framerInv ht
  rcases consume_messages ht with ⟨hr, hm, hp⟩ | ⟨p, u, hd, hr, hm, hp, hfatal⟩
  · exact .of_parts hf (h.messageInv.congr hr hm hp) (fun _ => hm.trans hmsg)
  · obtain ⟨-, hfat, -⟩ := deliver_frame hd
    exact .of_parts hf (deliver_messageInv (h.messageInv.congr hr hm hp) hd) (fun hn => absurd (hfat.trans hfatal) hn)

/-- An edge without a symbol keeps the invariants: at most a waiting message goes (R31). -/
theorem idleEdge_inv {s : State} (h : Inv s) (ready : Bool) : Inv (idleEdge ready s) := by
  cases ready
  · exact .of_parts h.framerInv (h.messageInv.congr rfl rfl rfl) h.fatalNoMessage
  · exact .of_parts h.framerInv ⟨h.idleEmpty, h.messageFits, nofun⟩ (fun _ => rfl)

/-- The pin samples and the counter of the free values are in no invariant (logs 1, 8). -/
theorem takePins_inv {s : State} (h : Inv s) : Inv (takePins s) :=
  .of_parts h.framerInv (h.messageInv.congr rfl rfl rfl) h.fatalNoMessage

/-- Settles O44: a step resets the block, idles, or consumes a symbol while no message waits. -/
theorem stepKeepsTheInvariants : Obligations.StepKeepsTheInvariants := by
  intro s t hs ht
  rcases step_cases ht with ⟨-, rfl⟩ | ⟨-, -, rfl⟩ | ⟨-, -, hready, hc⟩
  · exact resetBlock_inv _
  · exact idleEdge_inv (takePins_inv hs) _
  · exact consume_inv (takePins_inv hs) ((inReady_iff s).mp hready).2 hc

/-! ## The width of the message length -/

/-- A width holds the capacity exactly when it is at least the one of R23. -/
theorem mlenWidth_le_iff {p : Params} {cap : Nat} (hc : p.msgCap = some cap) :
    ∃ w, p.mlenWidth = some w ∧ ∀ v, w ≤ v ↔ cap < 2 ^ v := by
  refine ⟨_, by rw [Params.mlenWidth, hc, Option.map_some], fun v => ?_⟩
  by_cases h0 : cap = 0
  · simp [h0]
  · rw [if_neg h0]
    exact Nat.log2_lt h0

/-- Settles O46: the message in progress is within the capacity, which the least width holds. -/
theorem messageLengthFitsItsWidth : Obligations.MessageLengthFitsItsWidth := by
  intro s cap hs hc
  obtain ⟨w, hw, hleast⟩ := mlenWidth_le_iff hc
  have hcap : cap < 2 ^ w := (hleast w).mp le_rfl
  have hlen : s.mlen ≤ cap := by simpa [exceedsCap, hc] using hs.messageFits
  exact ⟨w, hw, hlen, hcap, hlen.trans_lt hcap, fun v => (hleast v).mpr⟩

end Sys2Proof.Machine
end

section
/-! SUPPORT. The framer's operations: the payload byte, the trailer and the segments it delivers, and that the framer does not read
the reassembler (O13, O15, O17, O30, O40). -/
namespace Sys2Proof.Machine

/-- What a delivery appends to the events, and the message port before and after it (R100, R150). -/
def OneReasmEvent (es : List OutEvent) (before after : Option LogicalMessage) : Prop :=
  (es = [] ∧ after = before) ∨ (∃ n, es = [.runtSegment n] ∧ after = before) ∨
  (∃ g x, es = [.seqMismatch g x] ∧ after = before) ∨ (es = [.msgOverflow] ∧ after = before) ∨
  ∃ m, es = [.message m] ∧ after = some m

theorem OneReasmEvent.spec {es : List OutEvent} {before after : Option LogicalMessage} (h : OneReasmEvent es before after) :
    es.length ≤ 1 ∧ (∀ f, .frameOk f ∉ es) ∧ ((∀ m, .message m ∉ es) → after = before) ∧
      (∀ m, .message m ∈ es → after = some m) := by
  rcases h with ⟨rfl, rfl⟩ | ⟨n, rfl, rfl⟩ | ⟨g, x, rfl, rfl⟩ | ⟨rfl, rfl⟩ | ⟨m, rfl, rfl⟩ <;> simp

/-- A delivery answers a next state and appends at most one event of the reassembler. -/
theorem deliver_event (p : List Byte) (s : State) :
    ∃ t es, deliver p s = .next t ∧ t.events = s.events ++ es ∧ OneReasmEvent es s.msg t.msg := deliver_next p s

/-! ## The payload byte -/

/-- Settles O13: the byte is written inside the buffer, which is in canonical form, and the index does not wrap. -/
theorem payloadByteIsStored : Obligations.PayloadByteIsStored := by
  intro s b hf hp hwf hin
  exact ⟨_, (consume_payload hf hp b).trans (if_pos hin), Memory.read_write_same _ _ b hwf,
    fun a ha => Memory.read_write_other _ _ a b ha, toNat_add_one_of_inBuffer hin, rfl⟩

/-- Settles O15: the write to the frame buffer is the only thing that can stop. -/
theorem payloadByteOutsideTheBufferFaults : Obligations.PayloadByteOutsideTheBufferFaults := by
  intro s b hf hp hout
  exact (consume_payload hf hp b).trans (if_neg (Nat.not_lt.mpr hout))

/-! ## The trailer -/

/-- Settles O17, by the verdict: a mismatch only raises its event, and a match delivers the payload, which leaves the framer. -/
theorem frameTrlCompletes : Obligations.FrameTrlCompletes := by
  intro chk s
  rcases execFrameTrl_cases chk s with ⟨hne, e⟩ | ⟨heq, e⟩
  · exact ⟨_, e, rfl, fun _ => rfl, rfl, rfl, rfl, rfl, fun _ => ⟨rfl, rfl, rfl, rfl⟩, fun h => absurd h hne⟩
  · obtain ⟨t, es, ht, hev, hes⟩ := deliver_event (linkFrame chk s).payload (raise (.frameOk (linkFrame chk s)) (toHunt s))
    obtain ⟨hfr, hfat, hfrm, hpar, hpins, hfree⟩ := deliver_frame ht
    refine ⟨t, e.trans ht, hfr, fun a => by rw [hfr]; rfl, hfat, hpar, hpins, hfree, fun h => absurd heq h,
      fun _ => ⟨hfrm, es, hes.spec.1, ?_⟩⟩
    rw [hev, raise_events, toHunt_events, List.append_assoc, List.singleton_append]

/-! ## The segments -/

/-- A segment does what the delivery of its encoding does, so what is known of a delivery holds of SEG and SEGF (R100, R101). -/
theorem exec_eq_deliver_encode {i : Instr} (hi : i.slot = .segment) (s : State) : exec i s = deliver (encode i) s := by
  refine (deliver_decoded ?_ s).symm
  cases i with
  | frameHdr len1 len2 => cases hi
  | frameTrl chk => cases hi
  | seg rsv seq src dst data => simp [decode, decodeSegment, encode, parseSegment_cons, Segment.toInstr]
  | segf rsv seq src dst data => simp [decode, decodeSegment, encode, parseSegment_cons, Segment.toInstr]

/-- Settles O30: what a delivery leaves, and its at most one event. -/
theorem segmentsLeaveTheFramer : Obligations.SegmentsLeaveTheFramer := by
  intro i s t hi ht
  rw [exec_eq_deliver_encode hi] at ht
  obtain ⟨hfr, hfat, hfrm, hpar, hpins, hfree⟩ := deliver_frame ht
  obtain ⟨u, es, hu, hev, hes⟩ := deliver_event (encode i) s
  cases hu.symm.trans ht
  obtain ⟨hlen, -, hmsg, -⟩ := hes.spec
  exact ⟨hfr, fun a => by rw [hfr], hfat, hfrm, hpar, hpins, hfree, es, hev, hlen, hmsg⟩

/-! ## The framer does not read the reassembler -/

/-- The events of the framer's valid frames. -/
def frameOks (es : List OutEvent) : List OutEvent := es.filter fun e => e.code == 0

theorem frameOk_mem_frameOks {f : LinkFrame} {es : List OutEvent} : .frameOk f ∈ frameOks es ↔ .frameOk f ∈ es := by
  simp [frameOks, OutEvent.code]

theorem frameOks_eq_nil {es : List OutEvent} (h : ∀ f, .frameOk f ∉ es) : frameOks es = [] := by
  refine List.filter_eq_nil_iff.mpr fun e he => ?_
  cases e with
  | frameOk f => exact absurd he (h f)
  | _ => simp [OutEvent.code]

/-- What an answer shows of the framer: its registers, the fatal condition and the valid frames. -/
def framing : Result → Option (Framer × Fatal × List OutEvent)
  | .next t => some (t.framer, t.fatal, frameOks t.events)
  | .fault _ => none
  | .refused _ => none

/-- The state of a block after reset but for its framer and its fatal condition. -/
def framerOnly (s : State) : State := { State.reset with framer := s.framer, fatal := s.fatal }

/-- A delivery shows nothing of the framer that was not there before (R10). -/
theorem framing_deliver (p : List Byte) (s : State) : framing (deliver p s) = framing (.next s) := by
  obtain ⟨t, es, ht, hev, hes⟩ := deliver_event p s
  obtain ⟨hfr, hfat, -⟩ := deliver_frame ht
  have hno : frameOks es = [] := frameOks_eq_nil hes.spec.2.1
  have happ : frameOks t.events = frameOks s.events ++ frameOks es := by rw [hev]; exact List.filter_append ..
  rw [ht, framing, framing, hfr, hfat, happ, hno, List.append_nil]

theorem framing_huntByte (b : Byte) (s : State) :
    framing (huntByte b (clearEvents s)) = framing (huntByte b (clearEvents (framerOnly s))) := by
  have hf : (clearEvents (framerOnly s)).framer = (clearEvents s).framer := rfl
  rw [huntByte_eq, huntByte_eq, hf]
  split <;> rfl

theorem framing_payloadByte (b : Byte) (s : State) :
    framing (payloadByte b (clearEvents s)) = framing (payloadByte b (clearEvents (framerOnly s))) := by
  have hf : (clearEvents (framerOnly s)).framer = (clearEvents s).framer := rfl
  simp only [payloadByte, writeFrameBuffer, hf]
  split <;> rfl

theorem framing_execFrameTrl (chk : Byte) (s : State) :
    framing (execFrameTrl chk (clearEvents s)) = framing (execFrameTrl chk (clearEvents (framerOnly s))) := by
  have hf : (clearEvents (framerOnly s)).framer = (clearEvents s).framer := rfl
  simp only [execFrameTrl, hf, framing_deliver, apply_ite framing]
  rfl

/-- What a symbol shows of the framer depends on the framer and the fatal condition alone (R10). -/
theorem framing_consume (x : InSym) (s : State) : framing (consume x s) = framing (consume x (framerOnly s)) := by
  by_cases hf : s.fatal = .none
  swap
  · rw [consume_fatal hf, consume_fatal (s := framerOnly s) hf]; rfl
  cases x with
  | eos => rw [consume_eos hf, consume_eos (s := framerOnly s) hf]; rfl
  | err => rw [consume_err hf, consume_err (s := framerOnly s) hf]; rfl
  | byte b =>
    cases hp : s.framer.fphase with
    | hunt =>
      rw [consume_hunt hf hp, consume_hunt (s := framerOnly s) hf hp]
      exact framing_huntByte b s
    | ctrl => rw [consume_ctrl hf hp, consume_ctrl (s := framerOnly s) hf hp]; rfl
    | addr => rw [consume_addr hf hp, consume_addr (s := framerOnly s) hf hp]; rfl
    | payload =>
      rw [consume_payload hf hp, consume_payload (s := framerOnly s) hf hp]
      exact framing_payloadByte b s
    | chk => rw [consume_chk hf hp, consume_chk (s := framerOnly s) hf hp]; rfl
    | stop =>
      rw [consume_stop hf hp, consume_stop (s := framerOnly s) hf hp]
      split
      · exact framing_execFrameTrl s.framer.fchk s
      · rfl

/-- Settles O40: the framers and fatal conditions are equal, and they are all that the framer's side of the answer depends on. -/
theorem framerIgnoresTheReassembler : Obligations.FramerIgnoresTheReassembler := by
  intro x s s' t t' hs hf ht ht'
  have hsame : framerOnly s = framerOnly s' := by rw [framerOnly, framerOnly, hs, hf]
  have h : framing (.next t) = framing (.next t') :=
    calc framing (.next t) = framing (consume x (framerOnly s)) := by rw [← ht, framing_consume]
      _ = framing (consume x (framerOnly s')) := by rw [hsame]
      _ = framing (.next t') := by rw [← ht', framing_consume x s']
  simp only [framing, Option.some.injEq, Prod.mk.injEq] at h
  obtain ⟨hfr, hfat, hok⟩ := h
  exact ⟨hfr, hfat, fun f => by rw [← frameOk_mem_frameOks, hok, frameOk_mem_frameOks]⟩

end Sys2Proof.Machine
end

section
/-! SUPPORT. The clock edge: which of its three effects it has, and what the outputs show after it (O6 to O8, O35 to O38, O41, O42). -/
namespace Sys2Proof.Machine

/-! ## The three effects of an edge -/

theorem step_of_reset {s : State} (h : (nextPins s).rst = true) : step s = .next (resetBlock (takePins s)) := if_pos h

theorem step_of_noSymbol {s : State} (hr : (nextPins s).rst = false) (h : ((nextPins s).inValid && s.inReady) = false) :
    step s = .next (idleEdge (nextPins s).msgReady (takePins s)) := by
  simp only [step, edge, hr, takePins_inReady, h, Bool.false_eq_true, if_false]

theorem step_of_symbol {s : State} (hr : (nextPins s).rst = false) (hv : (nextPins s).inValid = true) (h : s.inReady = true) :
    step s = consume (symbolOf (nextPins s)) (takePins s) := by
  simp only [step, edge, hr, takePins_inReady, hv, h, Bool.and_self, Bool.false_eq_true, if_false, if_true]

theorem nextPins_cons {s : State} {p : Pins} {rest : List Pins} (h : s.pins = p :: rest) : nextPins s = p := by
  simp [nextPins, h]

theorem takePins_cons {s : State} {p : Pins} {rest : List Pins} (h : s.pins = p :: rest) :
    takePins s = { s with pins := rest, freeIdx := s.freeIdx + 1 } := by
  simp [takePins, h]

theorem inReady_of_fatal {s : State} (h : s.fatal ≠ .none) : s.inReady = false :=
  Bool.eq_false_iff.mpr fun hr => h ((inReady_iff s).mp hr).1

theorem inReady_of_waiting {s : State} {m : LogicalMessage} (h : s.msg = some m) : s.inReady = false :=
  Bool.eq_false_iff.mpr fun hr => Option.some_ne_none m (h.symm.trans ((inReady_iff s).mp hr).2)

/-- Settles O7: the symbol that the pins offer is the one consumed, when the block is ready. -/
theorem edgeConsumesTheOfferedSymbol : Obligations.EdgeConsumesTheOfferedSymbol := by
  refine ⟨fun s p rest hs hr hv hready => ?_, inReady_iff⟩
  have hp := nextPins_cons hs
  rw [step_of_symbol (hp ▸ hr) (hp ▸ hv) hready, hp, takePins_cons hs]
  rfl

/-- Settles O8: without a valid symbol the edge is idle. -/
theorem nothingChangesWithoutAValidSymbol : Obligations.NothingChangesWithoutAValidSymbol := by
  intro s hr hv
  have hno : ((nextPins s).inValid && s.inReady) = false := by rw [hv, Bool.false_and]
  exact ⟨_, step_of_noSymbol hr hno, ⟨rfl, rfl, rfl⟩, rfl, rfl, rfl, rfl⟩

/-- Settles O35: the block is not ready after a fatal symbol, so the edge is idle, and the condition stays. -/
theorem fatalConditionIsSticky : Obligations.FatalConditionIsSticky := by
  intro s hf hr
  have hno : ((nextPins s).inValid && s.inReady) = false := by rw [inReady_of_fatal hf, Bool.and_false]
  exact ⟨_, step_of_noSymbol hr hno, ⟨rfl, rfl, rfl⟩, rfl, rfl, rfl, inReady_of_fatal hf⟩

/-- Settles O36: the block is not ready while a message waits, so the edge is idle. -/
theorem waitingMessageStallsTheBlock : Obligations.WaitingMessageStallsTheBlock := by
  intro s m hm hr
  have hready := inReady_of_waiting hm
  have hno : ((nextPins s).inValid && s.inReady) = false := by rw [hready, Bool.and_false]
  exact ⟨hready, _, step_of_noSymbol hr hno, ⟨rfl, rfl, rfl⟩, rfl, rfl, by rw [idleEdge_msg, takePins_msg, hm]⟩

/-- Settles O41: each stated value of reset, by computation. -/
theorem resetLeavesTheStatedValues : Obligations.ResetLeavesTheStatedValues :=
  ⟨rfl, rfl, rfl, rfl, rfl, rfl, rfl, rfl, rfl, rfl, rfl, rfl, rfl, rfl, rfl⟩

/-- Settles O42: a reset edge leaves the values of reset and the model's own fields. -/
theorem resetEdgeResetsTheBlock : Obligations.ResetEdgeResetsTheBlock := by
  intro s p rest hs hr
  have hrest : (takePins s).pins = rest := by rw [takePins_pins, hs, List.tail_cons]
  exact ⟨_, step_of_reset (nextPins_cons hs ▸ hr), rfl, rfl, rfl, rfl, rfl, rfl, rfl, rfl, rfl, rfl, rfl, hrest⟩

/-! ## The decoded instruction -/

/-- In HUNT the operation that the full new window decodes to is run on the shifted state (R81, R82). -/
theorem huntByte_decoded {b : Byte} {i : Instr} {s : State} (hw : 3 ≤ s.framer.wcnt)
    (h : decode .header [s.framer.w1, s.framer.w2, s.framer.w3, b] = .ok i) : huntByte b s = exec i (huntShift b s) := by
  have hwin : windowBytes (huntShift b s) = [s.framer.w1, s.framer.w2, s.framer.w3, b] := rfl
  have hfull : (huntShift b s).framer.wcnt = Config.WIN := Nat.min_eq_right (Nat.succ_le_succ hw)
  have hfetch : fetchHeader (huntShift b s) = some i := by rw [fetchHeader, if_pos hfull, hwin, h]; rfl
  simp only [huntByte, hfetch]

/-- In STOP the trailer that the held byte and this byte decode to is run (R87). -/
theorem stopByte_decoded {b : Byte} {i : Instr} {s : State} (h : decode .trailer [s.framer.fchk, b] = .ok i) :
    stopByte b s = exec i s := by
  simp only [stopByte, h]

/-- A byte that is offered to a ready block is dispatched by the phase, with an empty event list (R29, R80). -/
theorem step_of_byte {s : State} {p : Pins} {rest : List Pins} {b : Byte} (hs : s.pins = p :: rest) (hr : p.rst = false)
    (hv : p.inValid = true) (hb : symbolOf p = .byte b) (hf : s.fatal = .none) (hm : s.msg = none) :
    step s = consumeByte b { s with events := [], pins := rest, freeIdx := s.freeIdx + 1 } := by
  have hp := nextPins_cons hs
  rw [step_of_symbol (hp ▸ hr) (hp ▸ hv) ((inReady_iff s).mpr ⟨hf, hm⟩), hp, hb, takePins_cons hs]
  exact consume_byte (s := { s with pins := rest, freeIdx := s.freeIdx + 1 }) hf b

/-- Settles O6: each dispatch runs what the bytes decode to. -/
theorem stepRunsTheDecodedInstruction : Obligations.StepRunsTheDecodedInstruction := by
  refine ⟨?header, ?trailer, ?segment⟩
  case header =>
    intro s p rest b i hs hr hv hb hf hm hp hw hd
    rw [step_of_byte hs hr hv hb hf hm]
    simp only [consumeByte, hp]
    exact huntByte_decoded hw hd
  case trailer =>
    intro s p rest b i hs hr hv hb hf hm hp hd
    rw [step_of_byte hs hr hv hb hf hm]
    simp only [consumeByte, hp]
    exact stopByte_decoded hd
  case segment =>
    intro chk s i hc hd
    calc exec (.frameTrl chk) s = deliver (linkFrame chk s).payload (raise (.frameOk (linkFrame chk s)) (toHunt s)) :=
          if_neg (not_not.mpr hc)
      _ = exec i (raise (.frameOk (linkFrame chk s)) (toHunt s)) := deliver_decoded hd _

/-! ## The events of a step and the output ports -/

/-- The shape of the events of a step, and the ports they move: a valid frame comes first and loads `frm_*`, and beside it there is
at most one event, a message being put on the port (R30, R31, R150). -/
theorem consume_events {x : InSym} {s t : State} (h : consume x s = .next t) :
    ∃ es, es.length ≤ 1 ∧ (∀ f, .frameOk f ∉ es) ∧ (∀ m, .message m ∈ es → t.msg = some m) ∧
      ((t.events = es ∧ t.frm = s.frm) ∨ ∃ f, t.events = .frameOk f :: es ∧ t.frm = ⟨f.len, f.ctrl, f.addr, f.chk⟩) := by
  rcases consume_cases h with ⟨he, -, hfrm, -⟩ | ⟨he, -, hfrm, -⟩ | ⟨he, -, hfrm, -⟩ |
    ⟨-, ⟨b, he, -, -, hfrm, -⟩ | ⟨he, -, hfrm, -⟩ | ⟨f, es, -, -, he, hfrm, hes⟩⟩
  · exact ⟨_, by simp, by simp, by simp, .inl ⟨he, hfrm⟩⟩
  · exact ⟨_, by simp, by simp, by simp, .inl ⟨he, hfrm⟩⟩
  · exact ⟨_, by simp, by simp, by simp, .inl ⟨he, hfrm⟩⟩
  · exact ⟨_, by simp, by simp, by simp, .inl ⟨he, hfrm⟩⟩
  · exact ⟨_, by simp, by simp, by simp, .inl ⟨he, hfrm⟩⟩
  · obtain ⟨hlen, hno, -, hmsg⟩ := OneReasmEvent.spec hes
    exact ⟨es, hlen, hno, hmsg, .inr ⟨f, he, hfrm⟩⟩

theorem step_events {s t : State} (h : step s = .next t) :
    ∃ es, es.length ≤ 1 ∧ (∀ f, .frameOk f ∉ es) ∧ (∀ m, .message m ∈ es → t.msg = some m) ∧
      ((t.events = es ∧ ((nextPins s).rst = false → t.frm = s.frm)) ∨
        ∃ f, t.events = .frameOk f :: es ∧ t.frm = ⟨f.len, f.ctrl, f.addr, f.chk⟩) := by
  rcases step_cases h with ⟨hr, rfl⟩ | ⟨-, -, rfl⟩ | ⟨-, -, -, hc⟩
  · exact ⟨[], by simp, by simp, by simp, .inl ⟨rfl, fun hn => by simp [hr] at hn⟩⟩
  · exact ⟨[], by simp, by simp, by simp, .inl ⟨rfl, fun _ => rfl⟩⟩
  · obtain ⟨es, hlen, hno, hmsg, hev⟩ := consume_events hc
    exact ⟨es, hlen, hno, hmsg, hev.imp_left fun ⟨he, hfrm⟩ => ⟨he, fun _ => hfrm⟩⟩

/-- Settles O37: the step's one message stands on the port, and the views of the port read it. -/
theorem emittedMessageIsOnThePort : Obligations.EmittedMessageIsOnThePort := by
  intro s t m h hm
  obtain ⟨es, -, -, hmsg, hev⟩ := step_events h
  have hport : t.msg = some m := by
    rcases hev with ⟨he, -⟩ | ⟨f, he, -⟩ <;> exact hmsg m (by simpa [he] using hm)
  refine ⟨?_, ?_, ?_, ?_, fun raddr hlt => ?_⟩
  · simp [State.msgValid, hport]
  · simp [State.msgSrc, hport]
  · simp [State.msgDst, hport]
  · simp [State.msgLen, hport]
  · simp [State.msgRdata, hport, hlt]

/-- A step raises at most one event beside `FRAME_OK` (R150). -/
theorem step_event_unique {s t : State} (h : step s = .next t) {e e' : OutEvent} (he : e ∈ t.events) (he' : e' ∈ t.events)
    (hc : e.eventClass ≠ .result) (hc' : e'.eventClass ≠ .result) : e = e' := by
  obtain ⟨es, hlen, -, -, hev⟩ := step_events h
  have inTail : ∀ a ∈ t.events, a.eventClass ≠ .result → a ∈ es := by
    intro a ha hac
    rcases hev with ⟨hes, -⟩ | ⟨f, hes, -⟩ <;> rw [hes] at ha
    · exact ha
    · exact (List.mem_cons.mp ha).resolve_left fun hf => hac (hf ▸ rfl)
  have ha := inTail e he hc
  have ha' := inTail e' he' hc'
  match es, hlen with
  | [a], _ => exact (List.mem_singleton.mp ha).trans (List.mem_singleton.mp ha').symm

/-- A value that one event of a list carries, and no other, is the first one found. -/
theorem findSome?_eq_of_unique {info : OutEvent → Option Byte} {es : List OutEvent} {e : OutEvent} {a : Byte} (he : e ∈ es)
    (ha : info e = some a) (hu : ∀ e' ∈ es, ∀ b, info e' = some b → e' = e) : es.findSome? info = some a := by
  cases hf : es.findSome? info with
  | none =>
    have hnone := List.findSome?_eq_none_iff.mp hf e he
    rw [ha] at hnone
    cases hnone
  | some b =>
    obtain ⟨e', hm, hb⟩ := List.exists_of_findSome?_eq_some hf
    rw [hu e' hm b hb, ha] at hb
    exact hb.symm

theorem not_result_of_infoA {e : OutEvent} {a : Byte} (h : OutEvent.infoA e = some a) : e.eventClass ≠ .result := by
  cases e <;> simp [OutEvent.infoA, OutEvent.eventClass] at h ⊢

theorem not_result_of_infoB {e : OutEvent} {a : Byte} (h : OutEvent.infoB e = some a) : e.eventClass ≠ .result := by
  cases e <;> simp [OutEvent.infoB, OutEvent.eventClass] at h ⊢

/-- `ev_info_a` carries info a of the step's error event (R30, R141). -/
theorem evInfoA_of_mem {s t : State} (h : step s = .next t) {e : OutEvent} {a : Byte} (he : e ∈ t.events)
    (ha : OutEvent.infoA e = some a) : t.evInfoA = a := by
  have hfind := findSome?_eq_of_unique he ha fun e' he' b hb =>
    step_event_unique h he' he (not_result_of_infoA hb) (not_result_of_infoA ha)
  rw [State.evInfoA, hfind, Option.getD_some]

/-- `ev_info_b` carries info b of the step's error event (R30, R141). -/
theorem evInfoB_of_mem {s t : State} (h : step s = .next t) {e : OutEvent} {a : Byte} (he : e ∈ t.events)
    (ha : OutEvent.infoB e = some a) : t.evInfoB = a := by
  have hfind := findSome?_eq_of_unique he ha fun e' he' b hb =>
    step_event_unique h he' he (not_result_of_infoB hb) (not_result_of_infoB ha)
  rw [State.evInfoB, hfind, Option.getD_some]

/-- An event output, the test for one code, shows the events of the one constructor with that code (R141). -/
theorem any_code_iff {ι : Type} {es : List OutEvent} {k : Nat} (mk : ι → OutEvent) (h : ∀ e, e.code = k ↔ ∃ i, e = mk i) :
    (es.any fun e => e.code == k) = true ↔ ∃ i, mk i ∈ es := by
  simp only [List.any_eq_true, beq_iff_eq, h]
  exact ⟨fun ⟨_, he, i, hi⟩ => ⟨i, hi ▸ he⟩, fun ⟨i, hi⟩ => ⟨_, hi, i, rfl⟩⟩

theorem evFrameOk_iff (t : State) : t.evFrameOk = true ↔ ∃ f, .frameOk f ∈ t.events :=
  any_code_iff OutEvent.frameOk fun e => by cases e <;> simp [OutEvent.code]

theorem evBadStop_iff (t : State) : t.evBadStop = true ↔ ∃ g, .badStop g ∈ t.events :=
  any_code_iff OutEvent.badStop fun e => by cases e <;> simp [OutEvent.code]

theorem evBadChk_iff (t : State) : t.evBadChk = true ↔ ∃ r c, .badChecksum r c ∈ t.events :=
  (any_code_iff (fun i : Byte × Byte => .badChecksum i.1 i.2) fun e => by cases e <;> simp [OutEvent.code]).trans Prod.exists

theorem evSeqMismatch_iff (t : State) : t.evSeqMismatch = true ↔ ∃ g e, .seqMismatch g e ∈ t.events :=
  (any_code_iff (fun i : Seq × Seq => .seqMismatch i.1 i.2) fun e => by cases e <;> simp [OutEvent.code]).trans Prod.exists

theorem evRunt_iff (t : State) : t.evRunt = true ↔ ∃ n, .runtSegment n ∈ t.events :=
  any_code_iff OutEvent.runtSegment fun e => by cases e <;> simp [OutEvent.code]

theorem evOverflow_iff (t : State) : t.evOverflow = true ↔ .msgOverflow ∈ t.events :=
  (any_code_iff (fun _ : Unit => .msgOverflow) fun e => by cases e <;> simp [OutEvent.code]).trans (by simp)

/-- The `frm_*` registers hold the fields of the step's `FRAME_OK`, or are unchanged (R30). -/
theorem step_frm {s t : State} (h : step s = .next t) :
    (∀ f, .frameOk f ∈ t.events → t.frm = ⟨f.len, f.ctrl, f.addr, f.chk⟩) ∧
      ((nextPins s).rst = false → (∀ f, .frameOk f ∉ t.events) → t.frm = s.frm) := by
  obtain ⟨es, -, hno, -, ⟨he, hfrm⟩ | ⟨f, he, hfrm⟩⟩ := step_events h <;> rw [he]
  · exact ⟨fun f hf => absurd hf (hno f), fun hr _ => hfrm hr⟩
  · refine ⟨fun g hg => ?_, fun _ hnone => absurd List.mem_cons_self (hnone f)⟩
    cases (List.mem_cons.mp hg).resolve_right (hno g)
    exact hfrm

/-- Settles O38: each port is a view of the events, of which one at most is an error event. -/
theorem eventPortsShowTheStep : Obligations.EventPortsShowTheStep := by
  intro s t h hr
  obtain ⟨hload, hkeep⟩ := step_frm h
  refine ⟨evFrameOk_iff t, evBadStop_iff t, evBadChk_iff t, evSeqMismatch_iff t, evRunt_iff t, evOverflow_iff t,
    fun g hg => evInfoA_of_mem h hg rfl, fun r c hc => ⟨evInfoA_of_mem h hc rfl, evInfoB_of_mem h hc rfl⟩,
    fun g e he => ?seqMismatch, fun n hn => ?runt, hload, hkeep hr, ?fatal⟩
  case seqMismatch =>
    rw [evInfoA_of_mem h he rfl, evInfoB_of_mem h he rfl]
    exact ⟨BitVec.toNat_setWidth_of_le (by decide), BitVec.toNat_setWidth_of_le (by decide)⟩
  case runt =>
    rw [evInfoA_of_mem h hn rfl, BitVec.toNat_ofNat]
    omega
  case fatal =>
    unfold State.fatalO
    cases t.fatal <;> rfl

end Sys2Proof.Machine
end

section
/-! SUPPORT. The PAYLOAD phase over any number of bytes (O14). -/
namespace Sys2Proof.Machine

/-- The phase that goes with the index between two payload bytes: PAYLOAD until all declared bytes are stored (R85). -/
def bodyPhase (s : State) : FPhase := if s.framer.fidx.toNat = payloadLen s then .chk else .payload

/-- The state after a byte of PAYLOAD whose index is an offset of the buffer (R85). -/
def storePayload (b : Byte) (s : State) : State :=
  { payloadCount b s with
    events := []
    framer := { (payloadCount b s).framer with fbuf := s.framer.fbuf.write s.framer.fidx.toNat b } }

theorem consume_payload_inBuffer {s : State} (hf : s.fatal = .none) (hp : s.framer.fphase = .payload)
    (hin : s.framer.fidx.toNat < Config.PAYLOAD_MAX) (b : Byte) : consume (.byte b) s = .next (storePayload b s) :=
  (consume_payload hf hp b).trans (if_pos hin)

@[simp] theorem storePayload_fatal (b : Byte) (s : State) : (storePayload b s).fatal = s.fatal := rfl
@[simp] theorem storePayload_fbuf (b : Byte) (s : State) :
    (storePayload b s).framer.fbuf = s.framer.fbuf.write s.framer.fidx.toNat b := rfl
@[simp] theorem storePayload_fidx (b : Byte) (s : State) : (storePayload b s).framer.fidx = s.framer.fidx + 1#8 := rfl
@[simp] theorem storePayload_payloadLen (b : Byte) (s : State) : payloadLen (storePayload b s) = payloadLen s := rfl

theorem storePayload_fphase {s : State} (hin : s.framer.fidx.toNat < Config.PAYLOAD_MAX) (b : Byte) :
    (storePayload b s).framer.fphase = bodyPhase (storePayload b s) := by
  rw [bodyPhase, storePayload_fidx, toNat_add_one_of_inBuffer hin]
  rfl

/-- What the payload bytes `bs`, taken from `s`, have made of the block in `u`: they stand in the buffer behind the earlier ones and
are summed, and nothing else but the index, the phase and the event list has moved (R85). -/
structure PayloadTaken (bs : List Byte) (s u : State) : Prop where
  rest : u = { s with
    events := u.events
    framer := { s.framer with
      fbuf := u.framer.fbuf, fsum := s.framer.fsum + byteSum bs, fidx := u.framer.fidx, fphase := bodyPhase u } }
  index : u.framer.fidx.toNat = s.framer.fidx.toNat + bs.length
  stored : u.framer.fbuf.prefixBytes u.framer.fidx.toNat = s.framer.fbuf.prefixBytes s.framer.fidx.toNat ++ bs
  canonical : Memory.wf u.framer.fbuf = true

theorem PayloadTaken.nil {s : State} (hwf : Memory.wf s.framer.fbuf = true) (hp : s.framer.fphase = bodyPhase s) :
    PayloadTaken [] s s where
  rest := by simp [byteSum, ← hp]
  index := rfl
  stored := (List.append_nil _).symm
  canonical := hwf

/-- A byte stored in the buffer, put in front of the bytes taken after it. -/
theorem PayloadTaken.cons {b : Byte} {bs : List Byte} {s u : State} (hwf : Memory.wf s.framer.fbuf = true)
    (hin : s.framer.fidx.toNat < Config.PAYLOAD_MAX) (h : PayloadTaken bs (storePayload b s) u) :
    PayloadTaken (b :: bs) s u where
  rest := h.rest.trans (by simp [storePayload, payloadCount, byteSum, BitVec.add_assoc])
  index := by
    rw [h.index, storePayload_fidx, toNat_add_one_of_inBuffer hin, List.length_cons]
    omega
  stored := by
    rw [h.stored, storePayload_fidx, toNat_add_one_of_inBuffer hin, storePayload_fbuf, Memory.prefixBytes_write _ _ _ hwf,
      List.append_assoc, List.singleton_append]
  canonical := h.canonical

theorem PayloadTaken.fphase {bs : List Byte} {s u : State} (h : PayloadTaken bs s u) :
    u.framer.fphase = if s.framer.fidx.toNat + bs.length = payloadLen s then .chk else .payload := by
  have hphase : u.framer.fphase = bodyPhase u := congrArg (·.framer.fphase) h.rest
  have hlen : payloadLen u = payloadLen s := (congrArg payloadLen h.rest :)
  rw [hphase, bodyPhase, h.index, hlen]

/-- Payload bytes up to the remaining count are taken without an event, by induction on the bytes: while one is to come the phase is
PAYLOAD, and the index is an offset of the buffer (R85). -/
theorem runSymbols_payload (bs : List Byte) {s : State} (hf : s.fatal = .none) (hwf : Memory.wf s.framer.fbuf = true)
    (hp : s.framer.fphase = bodyPhase s) (hlen : s.framer.fidx.toNat + bs.length ≤ payloadLen s) :
    ∃ u, runSymbols (byteSyms bs) s = some (u, []) ∧ PayloadTaken bs s u := by
  induction bs generalizing s with
  | nil => exact ⟨s, rfl, .nil hwf hp⟩
  | cons b bs ih =>
    rw [List.length_cons] at hlen
    have hlt : s.framer.fidx.toNat < payloadLen s := by omega
    have hpay : s.framer.fphase = .payload := hp.trans (if_neg hlt.ne)
    have hin : s.framer.fidx.toNat < Config.PAYLOAD_MAX := BodyIndexed.inBuffer ⟨by simp [hpay], fun _ => hlt⟩ hpay
    have hnext : (storePayload b s).framer.fidx.toNat + bs.length ≤ payloadLen (storePayload b s) := by
      rw [storePayload_fidx, toNat_add_one_of_inBuffer hin, storePayload_payloadLen]
      omega
    obtain ⟨u, hrun, htaken⟩ := ih (s := storePayload b s) hf (Memory.wf_write _ _ _ hwf) (storePayload_fphase hin b) hnext
    exact ⟨u, runSymbols_cons (consume_payload_inBuffer hf hpay hin b) hrun, htaken.cons hwf hin⟩

/-- Settles O14: the invariants put the index below the declared count, so the phase goes with it before the first byte. -/
theorem payloadPhaseTakesTheDeclaredBytes : Obligations.PayloadPhaseTakesTheDeclaredBytes := by
  intro s bs hs hf hp hlen
  obtain ⟨-, hidx⟩ := hs.payloadIndex hp
  obtain ⟨u, hrun, htaken⟩ := runSymbols_payload bs hf hs.bufferForm.1 (hp.trans (if_neg hidx.ne).symm) hlen
  exact ⟨u, hrun, htaken.index, htaken.fphase, htaken.stored⟩

end Sys2Proof.Machine
end

section
/-! SUPPORT. The decoder against the encoder, slot by slot, and the bit fields of CONTROL-INFO (O1 to O5). -/
namespace Sys2Proof

/-! ## One slot each -/

theorem decode_header_wrongSize {p : List Byte} (h : p.length ≠ 4) : decode .header p = .error (.wrongSize p.length) := by
  match p with
  | [] | [_] | [_, _] | [_, _, _] | _ :: _ :: _ :: _ :: _ :: _ => rfl
  | [_, _, _, _] => exact absurd rfl h

theorem decode_trailer_wrongSize {p : List Byte} (h : p.length ≠ 2) : decode .trailer p = .error (.wrongSize p.length) := by
  match p with
  | [] | [_] | _ :: _ :: _ :: _ => rfl
  | [_, _] => exact absurd rfl h

theorem decode_segment_cons (ci src dst : Byte) (data : List Byte) :
    decode .segment (ci :: src :: dst :: data) =
      .ok (Segment.toInstr ⟨ciRsv ci, ciFin ci, ciSeq ci, src, dst, data⟩) := rfl

/-- A payload is a segment, or a runt of its length (R66, R107). -/
theorem decode_segment_cases (p : List Byte) :
    (∃ ci src dst data, p = ci :: src :: dst :: data) ∨ ∃ n : Fin 3, n.val = p.length ∧ decode .segment p = .error (.runt n) := by
  refine (parseSegment_cases p).imp_right fun ⟨n, hn, he⟩ => ⟨n, hn, ?_⟩
  simp only [decode, decodeSegment, he]

theorem decode_header_eq_ok_iff {p : List Byte} {i : Instr} :
    decode .header p = .ok i ↔ ∃ len1 len2, i = .frameHdr len1 len2 ∧ p = [Config.START, len1, len2, Config.START] := by
  refine ⟨fun h => ?_, fun ⟨_, _, hi, hp⟩ => hi ▸ hp ▸ rfl⟩
  by_cases hlen : p.length = 4
  · obtain ⟨a, b, c, d, rfl⟩ := List.length_eq_four.mp hlen
    rw [Machine.decode_header_eq] at h
    by_cases ha : a = Config.START
    · by_cases hd : d = Config.START
      · simp only [ha, hd, ne_eq, not_true_eq_false, if_false, Except.ok.injEq] at h
        exact ⟨b, c, h.symm, by rw [ha, hd]⟩
      · simp [ha, hd] at h
    · simp [ha] at h
  · rw [decode_header_wrongSize hlen] at h
    cases h

theorem decode_trailer_eq_ok_iff {p : List Byte} {i : Instr} :
    decode .trailer p = .ok i ↔ ∃ chk, i = .frameTrl chk ∧ p = [chk, Config.STOP] := by
  refine ⟨fun h => ?_, fun ⟨_, hi, hp⟩ => hi ▸ hp ▸ rfl⟩
  by_cases hlen : p.length = 2
  · obtain ⟨chk, b, rfl⟩ := List.length_eq_two.mp hlen
    rw [Machine.decode_trailer_eq] at h
    by_cases hb : b = Config.STOP
    · simp only [hb, if_true, Except.ok.injEq] at h
      exact ⟨chk, h.symm, by rw [hb]⟩
    · simp [hb] at h
  · rw [decode_trailer_wrongSize hlen] at h
    cases h

/-! ## The round trip -/

/-- SEG and SEGF are encoded alike, the finish flag being one of the three fields of CONTROL-INFO (R66, R68). -/
theorem encode_toInstr (g : Segment) : encode g.toInstr = ciByte g.rsv g.fin g.seq :: g.src :: g.dst :: g.data := by
  obtain ⟨rsv, fin, seq, src, dst, data⟩ := g
  cases fin <;> rfl

theorem slot_toInstr (g : Segment) : g.toInstr.slot = .segment := by
  obtain ⟨rsv, fin, seq, src, dst, data⟩ := g
  cases fin <;> rfl

/-- The fields that the decoder reads from the CONTROL-INFO byte of a segment are the ones put into it (R68). -/
theorem decode_encode_toInstr (g : Segment) : decode .segment (encode g.toInstr) = .ok g.toInstr := by
  rw [encode_toInstr, decode_segment_cons, ciRsv_ciByte, ciFin_ciByte, ciSeq_ciByte]

theorem decode_encode (i : Instr) : decode i.slot (encode i) = .ok i := by
  cases i with
  | frameHdr len1 len2 => exact decode_header_eq_ok_iff.mpr ⟨len1, len2, rfl, rfl⟩
  | frameTrl chk => exact decode_trailer_eq_ok_iff.mpr ⟨chk, rfl, rfl⟩
  | seg rsv seq src dst data => exact decode_encode_toInstr ⟨rsv, false, seq, src, dst, data⟩
  | segf rsv seq src dst data => exact decode_encode_toInstr ⟨rsv, true, seq, src, dst, data⟩

/-- Bytes that decode are the encoding: the decoder drops no bit of a byte string that it accepts (R62, R65, R66). -/
theorem encode_of_decode {slot : Slot} {p : List Byte} {i : Instr} (h : decode slot p = .ok i) :
    i.slot = slot ∧ encode i = p := by
  cases slot with
  | header =>
    obtain ⟨len1, len2, rfl, rfl⟩ := decode_header_eq_ok_iff.mp h
    exact ⟨rfl, rfl⟩
  | trailer =>
    obtain ⟨chk, rfl, rfl⟩ := decode_trailer_eq_ok_iff.mp h
    exact ⟨rfl, rfl⟩
  | segment =>
    rcases decode_segment_cases p with ⟨ci, src, dst, data, rfl⟩ | ⟨n, -, he⟩
    · rw [decode_segment_cons, Except.ok.injEq] at h
      subst h
      exact ⟨slot_toInstr _, by rw [encode_toInstr, ciByte_fields]⟩
    · rw [he] at h
      cases h

/-- Settles O2, by the operation in one direction and by the slot in the other. -/
theorem decodeAndEncodeAgree : Obligations.DecodeAndEncodeAgree :=
  ⟨decode_encode, fun _ _ _ => encode_of_decode⟩

/-- Settles O3: the header by its outer bytes, the trailer by its second, a segment by its length. -/
theorem decoderAcceptsExactlyThePatterns : Obligations.DecoderAcceptsExactlyThePatterns := by
  refine ⟨fun a b c d => ?header, fun a b c d ha => if_pos ha, fun b c d hd => ?start2, fun p => decode_header_wrongSize,
    fun chk b => ?trailer, fun chk b hb => ?stop, fun p => decode_trailer_wrongSize, fun p => ?segment, fun p hp => ?runt⟩
  case header => simp [decode_header_eq_ok_iff, Config.START]
  case start2 => simp [Machine.decode_header_eq, Config.START, hd]
  case trailer => simp [decode_trailer_eq_ok_iff, Config.STOP]
  case stop => exact (Machine.decode_trailer_eq chk b).trans (if_neg hb)
  case segment =>
    rcases decode_segment_cases p with ⟨ci, src, dst, data, rfl⟩ | ⟨n, hn, he⟩
    · simp [decode_segment_cons]
    · have := n.isLt
      simp only [he, reduceCtorEq, exists_false, false_iff]
      omega
  case runt =>
    rcases decode_segment_cases p with ⟨ci, src, dst, data, rfl⟩ | h
    · simp only [List.length_cons] at hp
      omega
    · exact h

/-- Settles O1: each word by running the decoder. -/
theorem decodesWrittenOutWords : Obligations.DecodesWrittenOutWords := by
  unfold Obligations.DecodesWrittenOutWords
  decide

/-! ## CONTROL-INFO -/

/-- The finish flag is mask 0x10 (R68, R69). -/
theorem ciFin_iff (ci : Byte) : ciFin ci = true ↔ ci &&& 0x10#8 = 0x10#8 := by
  revert ci
  decide

/-- The sequence number is mask 0x0F (R68). -/
theorem ciSeq_setWidth (ci : Byte) : (ciSeq ci).setWidth 8 = ci &&& 0x0F#8 := by
  revert ci
  decide

/-- The reserved field is the top three bits, a division by 32 (R68). -/
theorem ciRsv_toNat (ci : Byte) : (ciRsv ci).toNat = ci.toNat / 32 := by
  have := ci.isLt
  simp only [ciRsv, BitVec.extractLsb'_toNat, Nat.shiftRight_eq_div_pow]
  omega

/-- Settles O4: the operation by the finish flag, and the fields by their masks. -/
theorem controlInfoSelectsTheSegmentOperation : Obligations.ControlInfoSelectsTheSegmentOperation := by
  intro ci src dst data
  refine ⟨ciRsv ci, ciSeq ci, ?_, ciSeq_setWidth ci, ciRsv_toNat ci⟩
  simp only [decode_segment_cons, ← ciFin_iff]
  cases ciFin ci <;> rfl

/-- Settles O5: the finish flag is bit 4 and the sequence number bits 3:0, and the operations do not read the reserved field. -/
theorem reservedControlInfoBitsAreIgnored : Obligations.ReservedControlInfoBitsAreIgnored := by
  intro ci ci' src dst data s h
  have hfin : ciFin ci = ciFin ci' := h 4 (by decide)
  have hseq : ciSeq ci = ciSeq ci' := by
    refine BitVec.eq_of_getLsbD_eq fun k hk => ?_
    simp only [ciSeq, BitVec.getLsbD_extractLsb', Nat.zero_add, h k (by omega)]
  simp only [Machine.deliver, parseSegment_cons, hfin, hseq]
  rfl

end Sys2Proof
end

section
/-! SUPPORT. The header instruction and the runt (O10, O11, O28). -/
namespace Sys2Proof.Machine

/-- Settles O10: the lengths are equal and at least `LEN_MIN`, so the attempt begins, with the window emptied. -/
theorem frameHdrRecognisesAHeader : Obligations.FrameHdrRecognisesAHeader := by
  intro len s hlen
  exact if_pos ⟨rfl, hlen⟩

/-- Settles O11: one of the two side conditions of R62 fails. -/
theorem frameHdrCandidateIsNoHeader : Obligations.FrameHdrCandidateIsNoHeader := by
  intro len1 len2 s h
  refine if_neg fun ⟨heq, hmin⟩ => ?_
  exact h.elim (fun hne => hne heq) (fun hlt => Nat.not_lt.mpr hmin hlt)

/-- Settles O28: a payload without the three header bytes parses as a runt of its length. -/
theorem runtDropsTheMessage : Obligations.RuntDropsTheMessage := by
  intro p s hp
  rcases parseSegment_cases p with ⟨ci, src, dst, data, rfl⟩ | ⟨n, hn, he⟩
  · simp only [List.length_cons] at hp
    omega
  · refine ⟨n, hn, ?_⟩
    rw [deliver, he]
    rfl

end Sys2Proof.Machine
end

section
/-! SUPPORT. How many bytes a frame attempt takes, and how it starts in HUNT (O20). -/
namespace Sys2Proof.Machine

/-! ## The bytes that remain in an attempt -/

/-- How many bytes the attempt in progress still takes (R91): the stop byte, the checksum byte, the payload bytes not yet stored, and
the address and the control byte. -/
def remainingBytes (f : Framer) : Nat :=
  match f.fphase with
  | .hunt => 0
  | .ctrl => f.flen.toNat - Config.LEN_OVERHEAD + 4
  | .addr => f.flen.toNat - Config.LEN_OVERHEAD + 3
  | .payload => f.flen.toNat - Config.LEN_OVERHEAD - f.fidx.toNat + 2
  | .chk => 2
  | .stop => 1

/-- `n` bytes remain in an attempt, or it is over if `n` is 0; nothing has failed, the window is empty, and the index is in its bounds. -/
structure Attempting (n : Nat) (s : State) : Prop where
  indexed : BodyIndexed s.framer
  window : s.framer.wcnt = 0
  running : s.fatal = .none
  remaining : remainingBytes s.framer = n

theorem Attempting.betweenFrames {s : State} (h : Attempting 0 s) : betweenFrames s := by
  refine ⟨?_, h.window, h.running⟩
  have hr := h.remaining
  cases hp : s.framer.fphase <;> simp [remainingBytes, hp] at hr ⊢

theorem Attempting.not_hunting {n : Nat} {s : State} (h : Attempting n s) (hn : 0 < n) : s.framer.fphase ≠ .hunt := by
  intro hp
  have hr := h.remaining
  simp only [remainingBytes, hp] at hr
  omega

/-- In CTRL `flen + 2` bytes remain, the length being at least 2 (R91). -/
theorem Attempting.of_ctrl {s : State} (hp : s.framer.fphase = .ctrl) (hidx : s.framer.fidx = 0#8) (hw : s.framer.wcnt = 0)
    (hf : s.fatal = .none) (hlen : 2 ≤ s.framer.flen.toNat) : Attempting (s.framer.flen.toNat + 2) s where
  indexed := ⟨fun _ => hidx, by simp [hp]⟩
  window := hw
  running := hf
  remaining := by
    simp only [remainingBytes, hp, Config.LEN_OVERHEAD]
    omega

/-- The stop byte, whatever it is, hands the framer back to HUNT and changes no other register of it (R87, R89). -/
theorem consume_stop_next {s : State} (hf : s.fatal = .none) (hp : s.framer.fphase = .stop) (b : Byte) :
    ∃ t, consume (.byte b) s = .next t ∧ t.framer = { s.framer with fphase := .hunt } ∧ t.fatal = .none := by
  rw [consume_stop hf hp]
  split
  · obtain ⟨t, ht, hfr, -, hfat, -⟩ := frameTrlCompletes s.framer.fchk (clearEvents s)
    exact ⟨t, ht, hfr, hfat.trans hf⟩
  · exact ⟨_, rfl, by simp [badStop], hf⟩

/-- A byte of an attempt is one of those that remain, and only the last one may raise an event (R91). -/
theorem consume_attempting {n : Nat} {s : State} (h : Attempting (n + 1) s) (b : Byte) :
    ∃ t, consume (.byte b) s = .next t ∧ Attempting n t ∧ (0 < n → t.events = []) := by
  obtain ⟨hi, hw, hf, hr⟩ := h
  obtain ⟨t, ht, hi', -⟩ := consume_next hi (.byte b)
  refine ⟨t, ht, ?_⟩
  cases hp : s.framer.fphase with
  | hunt => simp [remainingBytes, hp] at hr
  | ctrl =>
    rw [consume_ctrl hf hp] at ht; cases ht
    simp only [remainingBytes, hp] at hr
    exact ⟨⟨hi', hw, hf, Nat.succ.inj hr⟩, fun _ => rfl⟩
  | addr =>
    rw [consume_addr hf hp] at ht; cases ht
    refine ⟨⟨hi', hw, hf, ?_⟩, fun _ => rfl⟩
    have hidx : s.framer.fidx.toNat = 0 := by rw [hi.start (.inr hp)]; rfl
    simp only [remainingBytes, hp] at hr
    by_cases hl : Config.LEN_OVERHEAD < s.framer.flen.toNat
    · simp only [remainingBytes, addrByte, clearEvents_framer, hl, if_true, hidx]
      omega
    · simp only [remainingBytes, addrByte, clearEvents_framer, hl, if_false]
      omega
  | payload =>
    rw [consume_payload_inBuffer hf hp (hi.inBuffer hp)] at ht; cases ht
    refine ⟨⟨hi', hw, hf, ?_⟩, fun _ => rfl⟩
    have hidx := toNat_add_one_of_inBuffer (hi.inBuffer hp)
    have hlt := hi.below hp
    simp only [remainingBytes, hp] at hr
    by_cases hl : s.framer.fidx.toNat + 1 = s.framer.flen.toNat - Config.LEN_OVERHEAD
    · simp only [remainingBytes, storePayload, payloadCount, payloadLen, hl, if_true]
      omega
    · simp only [remainingBytes, storePayload, payloadCount, payloadLen, hl, if_false, hidx]
      omega
  | chk =>
    rw [consume_chk hf hp] at ht; cases ht
    simp only [remainingBytes, hp] at hr
    exact ⟨⟨hi', hw, hf, Nat.succ.inj hr⟩, fun _ => rfl⟩
  | stop =>
    simp only [remainingBytes, hp] at hr
    obtain rfl : n = 0 := (Nat.succ.inj hr).symm
    obtain ⟨u, hu, hfr, hfat⟩ := consume_stop_next hf hp b
    cases hu.symm.trans ht
    exact ⟨⟨hi', by rw [hfr]; exact hw, hfat, by rw [hfr]; rfl⟩, fun h0 => absurd h0 (Nat.lt_irrefl 0)⟩

/-- Bytes of an attempt, as many as remain or fewer: no event comes before the last one (R91). -/
theorem runSymbols_attempting (bs : List Byte) {n : Nat} {s : State} (h : Attempting (bs.length + n) s) :
    ∃ u es, runSymbols (byteSyms bs) s = some (u, es) ∧ Attempting n u ∧ (0 < n → es = []) := by
  induction bs generalizing s with
  | nil => exact ⟨s, [], rfl, by simpa using h, fun _ => rfl⟩
  | cons b bs ih =>
    have h' : Attempting (bs.length + n + 1) s := by rwa [List.length_cons, Nat.add_right_comm] at h
    obtain ⟨t, ht, hatt, hev⟩ := consume_attempting h' b
    obtain ⟨u, es, hrun, hu, hes⟩ := ih hatt
    refine ⟨u, t.events ++ es, runSymbols_cons ht hrun, hu, fun hn => ?_⟩
    rw [hev (by omega), hes hn, List.append_nil]

/-- The bytes that remain are exactly what the attempt consumes (R91). -/
theorem consumesAttempt_of_attempting {body : List Byte} {s : State} (h : Attempting body.length s) : consumesAttempt [] body s := by
  refine ⟨?_, fun k hk => ?_⟩
  · obtain ⟨u, es, hrun, hu, -⟩ := runSymbols_attempting body (n := 0) h
    exact ⟨u, es, hrun, hu.betweenFrames⟩
  · have hsplit : (body.take k).length + (body.length - k) = body.length := by
      rw [List.length_take]
      omega
    obtain ⟨u, es, hrun, hu, hes⟩ := runSymbols_attempting (body.take k) (hsplit ▸ h)
    have hmore : 0 < body.length - k := by omega
    exact ⟨u, hes hmore ▸ hrun, hu.not_hunting hmore⟩

theorem byteSyms_append (bs cs : List Byte) : byteSyms (bs ++ cs) = byteSyms bs ++ byteSyms cs := List.map_append

theorem runSymbols_nil (s : State) : runSymbols [] s = some (s, []) := rfl

/-- Bytes without an event in front of an attempt. -/
theorem consumesAttempt_of_run {pre body : List Byte} {s t : State} (hrun : runSymbols (byteSyms pre) s = some (t, []))
    (h : consumesAttempt [] body t) : consumesAttempt pre body s := by
  obtain ⟨⟨u, es, hall, hu⟩, hshort⟩ := h
  refine ⟨⟨u, es, by rw [byteSyms_append]; exact runSymbols_append hrun hall, hu⟩, fun k hk => ?_⟩
  obtain ⟨u, hk, hu⟩ := hshort k hk
  exact ⟨u, by rw [byteSyms_append]; exact runSymbols_append hrun hk, hu⟩

/-! ## The header in HUNT -/

/-- Bytes that only slide the window (R81). -/
def shiftAll : List Byte → State → State
  | [], s => s
  | b :: bs, s => shiftAll bs (huntShift b (clearEvents s))

@[simp] theorem shiftAll_fatal (bs : List Byte) (s : State) : (shiftAll bs s).fatal = s.fatal := by
  induction bs generalizing s with
  | nil => rfl
  | cons b bs ih => exact ih (huntShift b (clearEvents s))

@[simp] theorem shiftAll_fphase (bs : List Byte) (s : State) : (shiftAll bs s).framer.fphase = s.framer.fphase := by
  induction bs generalizing s with
  | nil => rfl
  | cons b bs ih => exact ih (huntShift b (clearEvents s))

/-- The state after a header of length `len`, its four bytes shifted in and the attempt begun (R82). -/
def headerTaken (len : Byte) (s : State) : State :=
  beginAttempt len (shiftAll [Config.START, len, len, Config.START] s)

/-- In HUNT a byte slides the window, and may begin an attempt of at least four bytes (R81, R82). -/
theorem consume_hunt_cases {s : State} (hf : s.fatal = .none) (hp : s.framer.fphase = .hunt) (b : Byte) :
    consume (.byte b) s = .next (huntShift b (clearEvents s)) ∨
      ∃ t n, consume (.byte b) s = .next t ∧ Attempting n t ∧ 4 ≤ n := by
  rw [consume_hunt hf hp, huntByte_eq]
  split
  · rename_i hdr
    obtain ⟨-, -, -, -, hlen⟩ := hdr
    exact .inr ⟨_, _, rfl, .of_ctrl rfl rfl rfl hf hlen, Nat.add_le_add_right hlen 2⟩
  · exact .inl rfl

/-- While the window is not full, bytes only slide it (R82). -/
theorem runSymbols_shift (bs : List Byte) {s : State} (hf : s.fatal = .none) (hp : s.framer.fphase = .hunt)
    (hw : s.framer.wcnt + bs.length < Config.WIN) :
    runSymbols (byteSyms bs) s = some (shiftAll bs s, []) := by
  induction bs generalizing s with
  | nil => rfl
  | cons b bs ih =>
    rw [List.length_cons] at hw
    have hnotFull : min (s.framer.wcnt + 1) Config.WIN ≠ Config.WIN := by omega
    have hstep : consume (.byte b) s = .next (huntShift b (clearEvents s)) := by
      rw [consume_hunt hf hp, huntByte_eq]
      exact if_neg fun h => hnotFull h.1
    have hcount : (huntShift b (clearEvents s)).framer.wcnt = min (s.framer.wcnt + 1) Config.WIN := rfl
    exact runSymbols_cons hstep (ih (s := huntShift b (clearEvents s)) hf hp (by omega))

/-- At most four bytes that leave the framer hunting have only slid the window: an attempt begun by one of them would not be over. -/
theorem shiftAll_of_hunting (bs : List Byte) {s v : State} {es : List OutEvent} (hf : s.fatal = .none)
    (hp : s.framer.fphase = .hunt) (hlen : bs.length ≤ 4) (hrun : runSymbols (byteSyms bs) s = some (v, es))
    (hv : v.framer.fphase = .hunt) : v = shiftAll bs s ∧ es = [] := by
  induction bs generalizing s es with
  | nil => cases hrun; exact ⟨rfl, rfl⟩
  | cons b bs ih =>
    rw [List.length_cons] at hlen
    have hrun' : runSymbols (.byte b :: byteSyms bs) s = some (v, es) := hrun
    rcases consume_hunt_cases hf hp b with hstep | ⟨t, n, hstep, hatt, hn⟩
    · cases hrest : runSymbols (byteSyms bs) (huntShift b (clearEvents s)) with
      | none => simp [runSymbols, hstep, hrest] at hrun'
      | some r =>
        obtain ⟨w, fs⟩ := r
        cases (runSymbols_cons hstep hrest).symm.trans hrun'
        exact ih (s := huntShift b (clearEvents s)) hf hp (by omega) hrest
    · have hsplit : bs.length + (n - bs.length) = n := by omega
      obtain ⟨u, fs, hrest, hu, -⟩ := runSymbols_attempting bs (hsplit ▸ hatt)
      cases (runSymbols_cons hstep hrest).symm.trans hrun'
      exact absurd hv (hu.not_hunting (by omega))

/-- A header whose first three bytes only slide the window is recognised at its fourth (R62, R82). -/
theorem runSymbols_header {s : State} {len : Byte} (hf : s.fatal = .none) (hp : s.framer.fphase = .hunt) (hlen : 2 ≤ len.toNat)
    (hrun : runSymbols (byteSyms [Config.START, len, len]) s = some (shiftAll [Config.START, len, len] s, [])) :
    runSymbols (byteSyms [Config.START, len, len, Config.START]) s = some (headerTaken len s, []) := by
  have hfull : min ((shiftAll [Config.START, len, len] s).framer.wcnt + 1) Config.WIN = Config.WIN := by
    simp only [shiftAll, huntShift, clearEvents, Config.WIN]
    omega
  have hstep : consume (.byte Config.START) (shiftAll [Config.START, len, len] s) = .next (headerTaken len s) := by
    rw [consume_hunt (by simpa using hf) (by simpa using hp), huntByte_eq]
    exact if_pos ⟨hfull, rfl, rfl, rfl, hlen⟩
  exact runSymbols_append hrun (runSymbols_cons hstep (runSymbols_nil _))

/-- After a header of length `len` the attempt has `len + 2` bytes to come (R91). -/
theorem headerTaken_attempting {s : State} {len : Byte} (hf : s.fatal = .none) (hlen : 2 ≤ len.toNat) :
    Attempting (len.toNat + 2) (headerTaken len s) :=
  .of_ctrl (s := headerTaken len s) rfl rfl rfl hf hlen

/-- The header is recognised at an empty window, since the window is not full before its fourth byte. -/
theorem runSymbols_header_of_betweenFrames {s : State} {len : Byte} (hs : betweenFrames s) (hlen : 2 ≤ len.toNat) :
    runSymbols (byteSyms [Config.START, len, len, Config.START]) s = some (headerTaken len s, []) := by
  obtain ⟨hp, hw, hf⟩ := hs
  exact runSymbols_header hf hp hlen (runSymbols_shift [Config.START, len, len] hf hp (by simp [hw, Config.WIN]))

/-- Settles O20: each byte of an attempt is one of those that remain, and after a header, however it came, `flen + 2` remain. -/
theorem attemptConsumesLenPlusSixBytes : Obligations.AttemptConsumesLenPlusSixBytes := by
  refine ⟨?emptyWindow, ?anyWindow, ?ctrl⟩
  case emptyWindow =>
    intro s len body hs _ hlen hbody
    have ⟨_, _, hf⟩ := hs
    exact consumesAttempt_of_run (runSymbols_header_of_betweenFrames hs hlen)
      (consumesAttempt_of_attempting (hbody ▸ headerTaken_attempting hf hlen))
  case anyWindow =>
    intro s v es len body hf hp _ hlen hrun hv hbody
    obtain ⟨rfl, rfl⟩ := shiftAll_of_hunting [Config.START, len, len] hf hp (by simp) hrun hv
    exact consumesAttempt_of_run (runSymbols_header hf hp hlen hrun)
      (consumesAttempt_of_attempting (hbody ▸ headerTaken_attempting hf hlen))
  case ctrl =>
    intro s body hs hf hp hbody
    obtain ⟨hw, hlen⟩ := hs.attemptLen (by simp [hp])
    exact consumesAttempt_of_attempting (hbody ▸ .of_ctrl hp (hs.bodyStart (.inl hp)) hw hf hlen)

end Sys2Proof.Machine
end

section
/-! SUPPORT. A whole frame body from CTRL to the stop byte, and what the bytes of FRAME(c, a, p) produce (O21). -/
namespace Sys2Proof.Machine

theorem PayloadTaken.fatal {bs : List Byte} {s u : State} (h : PayloadTaken bs s u) : u.fatal = s.fatal :=
  (congrArg State.fatal h.rest :)

/-! ## The body up to the stop byte -/

/-- The state between the address byte and the payload (R83, R84). -/
def bodyOpened (c a : Byte) (s : State) : State := addrByte a (clearEvents (ctrlByte c (clearEvents s)))

/-- The state in STOP, after control byte, address byte, payload and checksum byte taken from `s` in CTRL: they are held in the framer's
registers and in its buffer, and the sum is that of R61 (R83 to R86). -/
def bodyHeld (c a : Byte) (p : List Byte) (k idx : Byte) (buf : Memory) (s : State) : State :=
  { s with
    events := []
    framer := { s.framer with
      fphase := .stop, fctrl := c, faddr := a, fsum := frameChecksum c a p, fchk := k, fidx := idx, fbuf := buf } }

theorem bodyOpened_fidx {s : State} (hidx : s.framer.fidx = 0#8) (c a : Byte) : (bodyOpened c a s).framer.fidx.toNat = 0 :=
  congrArg BitVec.toNat hidx

/-- The phase after the address byte is the one that goes with the index 0: an empty payload goes straight to CHK (R84). -/
theorem bodyOpened_fphase {s : State} (hidx : s.framer.fidx = 0#8) (c a : Byte) :
    (bodyOpened c a s).framer.fphase = bodyPhase (bodyOpened c a s) := by
  have hlen : payloadLen (bodyOpened c a s) = s.framer.flen.toNat - Config.LEN_OVERHEAD := rfl
  have hphase : (bodyOpened c a s).framer.fphase = if Config.LEN_OVERHEAD < s.framer.flen.toNat then .payload else .chk := rfl
  rw [bodyPhase, bodyOpened_fidx hidx, hlen, hphase]
  by_cases hl : Config.LEN_OVERHEAD < s.framer.flen.toNat
  · rw [if_pos hl, if_neg (by omega)]
  · rw [if_neg hl, if_pos (by omega)]

/-- The checksum byte after the payload is held, neither summed nor compared (R86). -/
theorem PayloadTaken.chkByte_eq {c a : Byte} {p : List Byte} {s u : State} (h : PayloadTaken p (bodyOpened c a s) u) (k : Byte) :
    chkByte k (clearEvents u) = bodyHeld c a p k u.framer.fidx u.framer.fbuf s := by
  rw [h.rest]
  simp [chkByte, clearEvents, bodyOpened, bodyHeld, addrByte, ctrlByte, frameChecksum]

/-- From CTRL the bytes of a body up to its checksum byte are taken without an event and held for the trailer, the payload being what
is read back from the buffer (R83 to R86). -/
theorem runSymbols_body {s : State} (c a k : Byte) {p : List Byte} (hf : s.fatal = .none) (hp : s.framer.fphase = .ctrl)
    (hidx : s.framer.fidx = 0#8) (hwf : Memory.wf s.framer.fbuf = true) (hlen : p.length = payloadLen s) :
    ∃ idx buf, runSymbols (byteSyms ([c, a] ++ p ++ [k])) s = some (bodyHeld c a p k idx buf s, []) ∧
      buf.prefixBytes (payloadLen s) = p := by
  have haddr : consume (.byte a) (ctrlByte c (clearEvents s)) = .next (bodyOpened c a s) :=
    consume_addr (s := ctrlByte c (clearEvents s)) hf rfl a
  have hopen : runSymbols (byteSyms [c, a]) s = some (bodyOpened c a s, []) :=
    runSymbols_cons (consume_ctrl hf hp c) (runSymbols_cons haddr (runSymbols_nil _))
  have hroom : (bodyOpened c a s).framer.fidx.toNat + p.length = payloadLen s := by
    rw [bodyOpened_fidx hidx, Nat.zero_add, hlen]
  obtain ⟨u, hpay, htaken⟩ := runSymbols_payload p (s := bodyOpened c a s) hf hwf (bodyOpened_fphase hidx c a) hroom.le
  have hchk : consume (.byte k) u = .next (bodyHeld c a p k u.framer.fidx u.framer.fbuf s) := by
    rw [consume_chk (htaken.fatal.trans hf) (htaken.fphase.trans (if_pos hroom)), htaken.chkByte_eq]
  refine ⟨u.framer.fidx, u.framer.fbuf, ?_, ?_⟩
  · rw [byteSyms_append, byteSyms_append]
    exact runSymbols_append (runSymbols_append hopen hpay) (runSymbols_cons hchk (runSymbols_nil _))
  · rw [← hroom, ← htaken.index, htaken.stored, bodyOpened_fidx hidx, Memory.prefixBytes_zero, List.nil_append]

/-! ## The bytes of a frame -/

/-- The header and the body of a frame, up to its checksum byte `k`, from HUNT with an empty window: no event, and the frame is held for
its trailer (R74, R92). -/
theorem runSymbols_header_body {s : State} {len : Byte} (c a k : Byte) {p : List Byte} (hs : betweenFrames s)
    (hwf : Memory.wf s.framer.fbuf = true) (hlen : len.toNat = p.length + 2) :
    ∃ idx buf, runSymbols (byteSyms ([Config.START, len, len, Config.START] ++ ([c, a] ++ p ++ [k]))) s =
        some (bodyHeld c a p k idx buf (headerTaken len s), []) ∧
      buf.prefixBytes (payloadLen (headerTaken len s)) = p := by
  have hpl : p.length = payloadLen (headerTaken len s) := (Nat.sub_eq_of_eq_add hlen).symm
  have ⟨_, _, hf⟩ := hs
  obtain ⟨idx, buf, hbody, hstored⟩ := runSymbols_body (s := headerTaken len s) c a k hf rfl rfl hwf hpl
  have hhdr := runSymbols_header_of_betweenFrames hs (len := len) (by omega)
  exact ⟨idx, buf, by rw [byteSyms_append]; exact runSymbols_append hhdr hbody, hstored⟩

/-- The link frame that the bytes of FRAME(c, a, p) carry (R74). -/
def frameOf (c a : Byte) (p : List Byte) : LinkFrame :=
  ⟨BitVec.ofNat 8 (p.length + Config.LEN_OVERHEAD), c, a, p, frameChecksum c a p⟩

/-- The right stop byte after the right checksum: `FRAME_OK` with the held fields, and the delivery of the payload (R87). -/
theorem consume_stop_bodyHeld (c a : Byte) {idx : Byte} {p : List Byte} {buf : Memory} {s : State} (hf : s.fatal = .none)
    (hlen : s.framer.flen = (frameOf c a p).len) (hstored : buf.prefixBytes (payloadLen s) = p) :
    consume (.byte Config.STOP) (bodyHeld c a p (frameChecksum c a p) idx buf s) =
      deliver p (raise (.frameOk (frameOf c a p)) (toHunt (bodyHeld c a p (frameChecksum c a p) idx buf s))) := by
  have hframe : linkFrame (frameChecksum c a p) (bodyHeld c a p (frameChecksum c a p) idx buf s) = frameOf c a p :=
    congrArg₂ (LinkFrame.mk · c a · _) hlen hstored
  rw [consume_stop (s := bodyHeld c a p (frameChecksum c a p) idx buf s) hf rfl, if_pos rfl]
  refine (if_neg (not_not.mpr rfl)).trans ?_
  exact congrArg (fun f : LinkFrame => deliver f.payload
    (raise (.frameOk f) (toHunt (bodyHeld c a p (frameChecksum c a p) idx buf s)))) hframe

/-- The bytes of a frame raise its `FRAME_OK`, the reassembler untouched, and then do what the delivery of the payload does (R92, R100). -/
theorem runSymbols_frameBytes {s : State} (c a : Byte) {p : List Byte} (hs : betweenFrames s) (hwf : Memory.wf s.framer.fbuf = true)
    (hp : p.length ≤ 253) :
    ∃ v, v.events = [.frameOk (frameOf c a p)] ∧ v.reasm = s.reasm ∧ v.params = s.params ∧ betweenFrames v ∧
      ∀ u, deliver p v = .next u → runSymbols (byteSyms (frameBytes c a p)) s = some (u, u.events) := by
  have hlen : (frameOf c a p).len.toNat = p.length + 2 := by
    simp only [frameOf, Config.LEN_OVERHEAD, BitVec.toNat_ofNat]
    omega
  have ⟨_, _, hf⟩ := hs
  obtain ⟨idx, buf, hrun, hstored⟩ := runSymbols_header_body c a (frameChecksum c a p) hs hwf hlen
  have hstop := consume_stop_bodyHeld c a (idx := idx) (s := headerTaken (frameOf c a p).len s) hf rfl hstored
  refine ⟨raise (.frameOk (frameOf c a p))
    (toHunt (bodyHeld c a p (frameChecksum c a p) idx buf (headerTaken (frameOf c a p).len s))),
    rfl, rfl, rfl, ⟨rfl, rfl, hf⟩, fun u hu => ?_⟩
  have hlast := runSymbols_append hrun (runSymbols_cons (hstop.trans hu) (runSymbols_nil u))
  have hsplit : frameBytes c a p =
      [Config.START, (frameOf c a p).len, (frameOf c a p).len, Config.START] ++ ([c, a] ++ p ++ [frameChecksum c a p]) ++
        [Config.STOP] := by
    simp [frameBytes, frameOf]
  rw [List.nil_append, List.append_nil] at hlast
  rw [hsplit, byteSyms_append]
  exact hlast

/-- A delivery right after a `FRAME_OK` adds no other one and leaves the framer between frames (R10, R100). -/
theorem deliver_after_frameOk {f : LinkFrame} {p : List Byte} {v u : State} (hev : v.events = [.frameOk f]) (hv : betweenFrames v)
    (h : deliver p v = .next u) :
    betweenFrames u ∧ (∀ g, .frameOk g ∈ u.events ↔ g = f) ∧ frameOks u.events = [.frameOk f] := by
  obtain ⟨t, es, ht, het, hes⟩ := deliver_event p v
  cases ht.symm.trans h
  obtain ⟨hfr, hfat, -⟩ := deliver_frame h
  obtain ⟨-, hno, -⟩ := hes.spec
  have hcons : u.events = .frameOk f :: es := by rw [het, hev, List.singleton_append]
  refine ⟨?_, fun g => by simp [hcons, hno], ?_⟩
  · rw [betweenFrames, hfr, hfat]
    exact hv
  · rw [hcons, frameOks, List.filter_cons_of_pos rfl, ← frameOks, frameOks_eq_nil hno]

/-- Settles O21: the frame is held when its stop byte comes, its checksum is right, and the delivery adds no `FRAME_OK`. -/
theorem frameBytesProduceExactlyOneFrame : Obligations.FrameBytesProduceExactlyOneFrame := by
  intro s c a p hs hwf hp
  obtain ⟨v, hev, hreasm, hparams, hv, hrun⟩ := runSymbols_frameBytes c a hs hwf hp
  obtain ⟨u, -, hu, -⟩ := deliver_event p v
  obtain ⟨hbetween, hone, hfilter⟩ := deliver_after_frameOk hev hv hu
  exact ⟨frameOf c a p, v, u, rfl, hev, hreasm, hparams, hv, hu, hrun u hu, hbetween, hone, congrArg List.length hfilter⟩

end Sys2Proof.Machine
end

section
/-! SUPPORT. A byte in each phase of the framer, and what a frame that it emits carries (O9, O12, O16, O18, O19). -/
namespace Sys2Proof.Machine

/-! ## HUNT -/

/-- The byte `b` makes the window full and a header (R62, R82). -/
def CompletesHeader (b : Byte) (f : Framer) : Prop :=
  3 ≤ f.wcnt ∧ f.w1 = Config.START ∧ b = Config.START ∧ f.w2 = f.w3 ∧ Config.LEN_MIN ≤ f.w2.toNat

/-- The window is full after the next byte when it holds three now (R81). -/
theorem window_full_iff (n : Nat) : min (n + 1) Config.WIN = Config.WIN ↔ 3 ≤ n := by
  simp only [Config.WIN]
  omega

theorem consume_hunt_of_header {s : State} {b : Byte} (hf : s.fatal = .none) (hp : s.framer.fphase = .hunt)
    (h : CompletesHeader b s.framer) :
    consume (.byte b) s = .next (beginAttempt s.framer.w2 (huntShift b (clearEvents s))) := by
  obtain ⟨hfull, hpattern⟩ := h
  rw [consume_hunt hf hp, huntByte_eq]
  exact if_pos ⟨(window_full_iff _).mpr hfull, hpattern⟩

theorem consume_hunt_of_no_header {s : State} {b : Byte} (hf : s.fatal = .none) (hp : s.framer.fphase = .hunt)
    (h : ¬ CompletesHeader b s.framer) : consume (.byte b) s = .next (huntShift b (clearEvents s)) := by
  rw [consume_hunt hf hp, huntByte_eq]
  exact if_neg fun ⟨hfull, hpattern⟩ => h ⟨(window_full_iff _).mp hfull, hpattern⟩

/-- Settles O9: the byte completes a header or only slides the window. -/
theorem huntedByteIsShiftedAndTested : Obligations.HuntedByteIsShiftedAndTested := fun _ _ hf hp =>
  ⟨consume_hunt_of_header hf hp, consume_hunt_of_no_header hf hp⟩

/-! ## CTRL, ADDR and CHK -/

/-- Settles O12: one update each; in ADDR the declared length chooses the next phase. -/
theorem headerFieldBytesAreTaken : Obligations.HeaderFieldBytesAreTaken := by
  intro s b hf
  refine ⟨fun hp => consume_ctrl hf hp b, fun hp hlen => ?payload, fun hp hlen => ?empty, fun hp => consume_chk hf hp b⟩
  case payload =>
    have hlong : Config.LEN_OVERHEAD < s.framer.flen.toNat := hlen
    simp [consume_addr hf hp, addrByte, clearEvents, hlong]
  case empty =>
    have hshort : ¬ Config.LEN_OVERHEAD < s.framer.flen.toNat := by simp [hlen, Config.LEN_OVERHEAD]
    simp [consume_addr hf hp, addrByte, clearEvents, hshort]

/-! ## STOP -/

theorem consume_stop_of_badStop {s : State} {b : Byte} (hf : s.fatal = .none) (hp : s.framer.fphase = .stop)
    (hb : b ≠ Config.STOP) : consume (.byte b) s = .next (badStop b (clearEvents s)) :=
  (consume_stop hf hp b).trans (if_neg hb)

theorem consume_stop_of_badChecksum {s : State} (hf : s.fatal = .none) (hp : s.framer.fphase = .stop)
    (hc : s.framer.fchk ≠ s.framer.fsum) :
    consume (.byte Config.STOP) s = .next (raise (.badChecksum s.framer.fchk s.framer.fsum) (toHunt (clearEvents s))) := by
  rw [consume_stop hf hp, if_pos rfl]
  exact if_pos hc

theorem consume_stop_of_valid {s : State} (hf : s.fatal = .none) (hp : s.framer.fphase = .stop)
    (hc : s.framer.fchk = s.framer.fsum) :
    consume (.byte Config.STOP) s = deliver (linkFrame s.framer.fchk s).payload
      (raise (.frameOk (linkFrame s.framer.fchk s)) (toHunt (clearEvents s))) := by
  rw [consume_stop hf hp, if_pos rfl]
  exact if_neg (not_not.mpr hc)

/-- Settles O16: the stop byte is tested before the checksum, and the frame of a match is the one the registers and the buffer hold. -/
theorem trailerGivesOneVerdict : Obligations.TrailerGivesOneVerdict := by
  intro s b hf hp
  refine ⟨consume_stop_of_badStop hf hp, ?badChecksum, ?valid⟩
  case badChecksum =>
    rintro rfl hc
    exact consume_stop_of_badChecksum hf hp hc
  case valid =>
    rintro rfl hc
    exact ⟨linkFrame s.framer.fchk s, rfl, rfl, rfl, rfl, rfl, consume_stop_of_valid hf hp hc⟩

/-- Settles O19: the stop byte hands the framer back to HUNT, and the window of an attempt is empty (R34 (b)). -/
theorem attemptEndsHuntingWithAnEmptyWindow : Obligations.AttemptEndsHuntingWithAnEmptyWindow := by
  intro s b hs hf hp
  obtain ⟨t, ht, hfr, hfat⟩ := consume_stop_next hf hp b
  obtain ⟨hw, -⟩ := hs.attemptLen (by simp [hp])
  exact ⟨t, ht, by rw [hfr], by rw [hfr]; exact hw, hfat⟩

/-! ## Emitted frames -/

/-- A symbol emits no other frame than the one held for the trailer in STOP, and only with the right checksum (R87). -/
theorem frame_of_consume {x : InSym} {s t : State} {f : LinkFrame} (h : consume x s = .next t) (hm : .frameOk f ∈ t.events) :
    s.framer.fphase = .stop ∧ s.framer.fchk = s.framer.fsum ∧ f = linkFrame s.framer.fchk s := by
  rcases consume_cases h with ⟨he, -⟩ | ⟨he, -⟩ | ⟨he, -⟩ | ⟨hp, ⟨b, he, -⟩ | ⟨he, -⟩ | ⟨g, es, hg, hc, he, -, hes⟩⟩ <;>
    rw [he] at hm
  case inr.inr.inr.inr.inr =>
    obtain ⟨-, hno, -⟩ := OneReasmEvent.spec hes
    cases (List.mem_cons.mp hm).resolve_right (hno f)
    exact ⟨hp, hc, hg⟩
  all_goals simp at hm

/-- The same of a clock edge: an edge without a symbol emits nothing. -/
theorem frame_of_step {s t : State} {f : LinkFrame} (h : step s = .next t) (hm : .frameOk f ∈ t.events) :
    s.framer.fphase = .stop ∧ s.framer.fchk = s.framer.fsum ∧ f = linkFrame s.framer.fchk s := by
  rcases step_cases h with ⟨-, rfl⟩ | ⟨-, -, rfl⟩ | ⟨-, -, -, hc⟩
  · cases hm
  · cases hm
  · exact frame_of_consume (s := takePins s) hc hm

/-- In STOP the running sum is the checksum of the frame that the registers and the buffer hold (R34 (c), (d)). -/
theorem Inv.stop_sum {s : State} (hs : Inv s) (hp : s.framer.fphase = .stop) :
    s.framer.fsum = frameChecksum s.framer.fctrl s.framer.faddr (s.framer.fbuf.prefixBytes (payloadLen s)) := by
  rw [← hs.trailerIndex (.inr hp)]
  exact hs.bodySum (.inr (.inr hp))

/-- Settles O18: the frame is the one held in STOP, where the invariants give its checksum and its length. -/
theorem emittedFramesMeetTheirInvariants : Obligations.EmittedFramesMeetTheirInvariants := by
  intro s t f hs ht hm
  obtain ⟨hp, hc, rfl⟩ := frame_of_step ht hm
  obtain ⟨-, hlen⟩ := hs.attemptLen (by simp [hp])
  exact ⟨rfl, rfl, rfl, rfl, rfl, hc.trans (hs.stop_sum hp), Memory.prefixBytes_length .., hlen⟩

end Sys2Proof.Machine
end

section
/-! SUPPORT. A changed payload byte changes the checksum, so the frame is rejected (O22). -/
namespace Sys2Proof

/-- Replacing one byte by another changes the sum of bytes (R90). -/
theorem byteSum_set_ne {p : List Byte} {i : Nat} (hi : i < p.length) {b : Byte} (hb : b ≠ p[i]) :
    byteSum (p.set i b) ≠ byteSum p := by
  induction p generalizing i with
  | nil => cases hi
  | cons a p ih =>
    cases i with
    | zero => exact fun h => hb ((BitVec.add_left_inj _).mp h)
    | succ i => exact fun h => ih (Nat.lt_of_succ_lt_succ hi) hb ((BitVec.add_right_inj _).mp h)

theorem frameChecksum_set_ne {p : List Byte} {i : Nat} (hi : i < p.length) {b : Byte} (hb : b ≠ p[i]) (c a : Byte) :
    frameChecksum c a (p.set i b) ≠ frameChecksum c a p :=
  fun h => byteSum_set_ne hi hb ((BitVec.add_right_inj _).mp h)

/-- Flipping one bit of a byte changes it. -/
theorem flip_bit_ne (b : Byte) {k : Nat} (hk : k < 8) : b ^^^ (1#8 <<< k) ≠ b := by
  intro h
  have hbit : (b ^^^ (1#8 <<< k)).getLsbD k = b.getLsbD k := by rw [h]
  simp [hk] at hbit

end Sys2Proof

namespace Sys2Proof.Machine

/-- A whole frame with a wrong checksum byte raises one `BAD_CHECKSUM`, leaves the reassembler, and ends the attempt (R87, R143). -/
theorem runSymbols_badChecksum {s : State} {len : Byte} (c a k : Byte) {p : List Byte} (hs : betweenFrames s)
    (hwf : Memory.wf s.framer.fbuf = true) (hlen : len.toNat = p.length + 2) (hk : k ≠ frameChecksum c a p) :
    ∃ u, runSymbols (byteSyms ([Config.START, len, len, Config.START] ++ ([c, a] ++ p ++ [k]) ++ [Config.STOP])) s =
        some (u, [.badChecksum k (frameChecksum c a p)]) ∧
      u.reasm = s.reasm ∧ betweenFrames u := by
  have ⟨_, _, hf⟩ := hs
  obtain ⟨idx, buf, hrun, -⟩ := runSymbols_header_body c a k hs hwf hlen
  have hstop := consume_stop_of_badChecksum (s := bodyHeld c a p k idx buf (headerTaken len s)) hf rfl hk
  have hall := runSymbols_append hrun (runSymbols_cons hstop (runSymbols_nil _))
  exact ⟨_, (congrArg (runSymbols · s) (byteSyms_append ..)).trans hall, rfl, rfl, rfl, hf⟩

/-- Settles O22: the flipped bit changes one payload byte, so the computed sum is not the received one. -/
theorem flippedPayloadBitIsRejected : Obligations.FlippedPayloadBitIsRejected := by
  intro s c a p i k hs hwf hp hi hk
  have hflip : p.getD i 0#8 ^^^ (1#8 <<< k) ≠ p[i] := by
    rw [List.getD_eq_getElem _ _ hi]
    exact flip_bit_ne _ hk
  have hlen : (BitVec.ofNat 8 (p.length + 2)).toNat = (p.set i (p.getD i 0#8 ^^^ (1#8 <<< k))).length + 2 := by
    rw [BitVec.toNat_ofNat, List.length_set]
    omega
  obtain ⟨u, hrun, hu⟩ := runSymbols_badChecksum c a (frameChecksum c a p) hs hwf hlen (frameChecksum_set_ne hi hflip c a).symm
  refine ⟨u, ?_, hu⟩
  simpa [Config.START, Config.STOP] using hrun

end Sys2Proof.Machine
end

section
/-! SUPPORT. Registers that no later symbol reads: two states that differ only in them raise the same events (O47). -/
namespace Sys2Proof.Machine

/-! ## States alike up to registers that are written before they are read -/

/-- The windows hold equally many consumed bytes, and the same ones; the oldest of four is never read again (R11, R81). -/
def SameWindow (f g : Framer) : Prop :=
  f.wcnt = g.wcnt ∧ (1 ≤ f.wcnt → f.w3 = g.w3) ∧ (2 ≤ f.wcnt → f.w2 = g.w2) ∧ (3 ≤ f.wcnt → f.w1 = g.w1)

/-- What the header and the control byte have set is equal (R82, R83). -/
def SameOpening (f g : Framer) : Prop := f.flen = g.flen ∧ f.fidx = g.fidx ∧ f.fctrl = g.fctrl ∧ f.fsum = g.fsum

/-- So is what the address byte and `n` payload bytes have set (R84, R85). -/
def SameBody (n : Nat) (f g : Framer) : Prop :=
  SameOpening f g ∧ f.faddr = g.faddr ∧ f.fbuf.prefixBytes n = g.fbuf.prefixBytes n

/-- What the attempt has set so far, by the phase; the framer's other registers are written before they are read (R82 to R87). -/
def SameAttempt : FPhase → Framer → Framer → Prop
  | .hunt, _, _ => True
  | .ctrl, f, g => f.flen = g.flen ∧ f.fidx = g.fidx
  | .addr, f, g => SameOpening f g
  | .payload, f, g => SameBody f.fidx.toNat f g
  | .chk, f, g => SameBody (f.flen.toNat - Config.LEN_OVERHEAD) f g
  | .stop, f, g => SameBody (f.flen.toNat - Config.LEN_OVERHEAD) f g ∧ f.fchk = g.fchk

/-- The framers agree in what the next bytes read, and both buffers are in canonical form. -/
structure FramerAlike (f g : Framer) : Prop where
  phase : f.fphase = g.fphase
  window : SameWindow f g
  attempt : SameAttempt f.fphase f g
  canonical : Memory.wf f.fbuf = true ∧ Memory.wf g.fbuf = true

/-- The reassemblers agree up to the identifiers, which Idle does not read (R103, R171). -/
def SameMessage (r q : Reassembler) : Prop :=
  r.rstate = q.rstate ∧ r.rexp = q.rexp ∧ r.mbuf = q.mbuf ∧ (r.rstate = .assembling → r.msrc = q.msrc ∧ r.mdst = q.mdst)

/-- The states show the same events and agree in what the next symbols read. -/
structure Alike (s t : State) : Prop where
  framer : FramerAlike s.framer t.framer
  reasm : SameMessage s.reasm t.reasm
  fatal : s.fatal = t.fatal
  params : s.params = t.params
  events : s.events = t.events

/-- Both answers are next states, and these are alike. -/
def AnswerAlike (r q : Result) : Prop := ∃ s t, r = .next s ∧ q = .next t ∧ Alike s t

theorem Alike.answer {s t : State} (h : Alike s t) : AnswerAlike (.next s) (.next t) := ⟨s, t, rfl, rfl, h⟩

variable {s t : State}

/-! ## The delivery -/

theorem raise_alike (h : Alike s t) (e : OutEvent) : Alike (raise e s) (raise e t) where
  framer := by simpa using h.framer
  reasm := by simpa using h.reasm
  fatal := by simpa using h.fatal
  params := by simpa using h.params
  events := by simp [h.events]

theorem toIdle_alike (h : Alike s t) : Alike (toIdle s) (toIdle t) :=
  ⟨h.framer, ⟨rfl, rfl, rfl, nofun⟩, h.fatal, h.params, h.events⟩

theorem dropWith_alike (h : Alike s t) (e : OutEvent) : Alike (dropWith e s) (dropWith e t) := raise_alike (toIdle_alike h) e

theorem startMessage_alike (h : Alike s t) (src dst : Byte) (data : List Byte) :
    Alike (startMessage src dst data s) (startMessage src dst data t) :=
  ⟨h.framer, ⟨rfl, rfl, rfl, fun _ => ⟨rfl, rfl⟩⟩, h.fatal, h.params, h.events⟩

theorem appendSegment_alike (h : Alike s t) (data : List Byte) : Alike (appendSegment data s) (appendSegment data t) := by
  obtain ⟨hstate, hexp, hbuf, hids⟩ := h.reasm
  exact ⟨h.framer, ⟨hstate, congrArg (· + 1#4) hexp, congrArg (· ++ data) hbuf, hids⟩, h.fatal, h.params, h.events⟩

theorem expectation_eq_of_alike (h : Alike s t) : expectation s = expectation t := by
  obtain ⟨hstate, hexp, -⟩ := h.reasm
  rw [expectation, expectation, hstate, hexp]

/-- The identifiers are read only while assembling, where they agree (R103, R110). -/
theorem assembled_eq_of_alike (h : Alike s t) (src dst : Byte) (data : List Byte) :
    assembled src dst data s = assembled src dst data t := by
  obtain ⟨hstate, -, hbuf, hids⟩ := h.reasm
  cases hr : s.reasm.rstate with
  | idle => simp only [assembled, hr, ← hstate]
  | assembling =>
    obtain ⟨hsrc, hdst⟩ := hids hr
    simp only [assembled, hr, ← hstate, hsrc, hdst, hbuf]

theorem execSeg_alike (h : Alike s t) (rsv : BitVec 3) (seq : Seq) (src dst : Byte) (data : List Byte) :
    AnswerAlike (execSeg rsv seq src dst data s) (execSeg rsv seq src dst data t) := by
  obtain ⟨hstate, -⟩ := h.reasm
  simp only [execSeg, expectation_eq_of_alike h, assembled_eq_of_alike h, h.params, hstate]
  split
  · exact (dropWith_alike h _).answer
  · split
    · exact (dropWith_alike h _).answer
    · cases t.reasm.rstate
      · exact (startMessage_alike h src dst data).answer
      · exact (appendSegment_alike h data).answer

theorem execSegf_alike (h : Alike s t) (rsv : BitVec 3) (seq : Seq) (src dst : Byte) (data : List Byte) :
    AnswerAlike (execSegf rsv seq src dst data s) (execSegf rsv seq src dst data t) := by
  simp only [execSegf, expectation_eq_of_alike h, assembled_eq_of_alike h, h.params]
  split
  · exact (dropWith_alike h _).answer
  · split
    · exact (dropWith_alike h _).answer
    · exact (raise_alike (toIdle_alike h) _).answer

theorem deliver_alike (h : Alike s t) (p : List Byte) : AnswerAlike (deliver p s) (deliver p t) := by
  unfold deliver
  cases parseSegment p with
  | error n => exact (dropWith_alike h _).answer
  | ok g =>
    obtain ⟨rsv, fin, seq, src, dst, data⟩ := g
    cases fin
    · exact execSeg_alike h rsv seq src dst data
    · exact execSegf_alike h rsv seq src dst data

/-! ## A byte in each phase -/

theorem huntShift_alike (h : Alike s t) (hp : s.framer.fphase = .hunt) (b : Byte) : Alike (huntShift b s) (huntShift b t) := by
  obtain ⟨hcnt, h3, h2, -⟩ := h.framer.window
  have hwindow : SameWindow (huntShift b s).framer (huntShift b t).framer := by
    simp only [SameWindow, huntShift, Config.WIN, hcnt] at h3 h2 ⊢
    exact ⟨trivial, fun _ => trivial, fun _ => h3 (by omega), fun _ => h2 (by omega)⟩
  have hattempt : SameAttempt s.framer.fphase (huntShift b s).framer (huntShift b t).framer := by rw [hp]; trivial
  exact ⟨⟨h.framer.phase, hwindow, hattempt, h.framer.canonical⟩, h.reasm, h.fatal, h.params, h.events⟩

/-- A header empties the window, so no byte of it is read again (R82). -/
theorem beginAttempt_alike (h : Alike s t) (len : Byte) : Alike (beginAttempt len s) (beginAttempt len t) :=
  ⟨⟨rfl, ⟨rfl, nofun, nofun, nofun⟩, ⟨rfl, rfl⟩, h.framer.canonical⟩, h.reasm, h.fatal, h.params, h.events⟩

/-- The same byte completes a header in both windows or in neither: less than three bytes complete none (R82). -/
theorem SameWindow.completesHeader_iff {f g : Framer} (h : SameWindow f g) (b : Byte) :
    CompletesHeader b f ↔ CompletesHeader b g := by
  obtain ⟨hcnt, h3, h2, h1⟩ := h
  simp only [CompletesHeader, ← hcnt]
  refine and_congr_right fun hfull => ?_
  rw [h3 (by omega), h2 (by omega), h1 hfull]

theorem ctrlByte_alike (h : Alike s t) (hp : s.framer.fphase = .ctrl) (b : Byte) : Alike (ctrlByte b s) (ctrlByte b t) := by
  obtain ⟨hlen, hidx⟩ : SameAttempt .ctrl s.framer t.framer := hp ▸ h.framer.attempt
  exact ⟨⟨rfl, h.framer.window, ⟨hlen, hidx, rfl, rfl⟩, h.framer.canonical⟩, h.reasm, h.fatal, h.params, h.events⟩

/-- No payload byte is stored when the address byte comes, so the buffers need not agree (R17). -/
theorem addrByte_alike (h : Alike s t) (hi : BodyIndexed s.framer) (hp : s.framer.fphase = .addr) (b : Byte) :
    Alike (addrByte b s) (addrByte b t) := by
  obtain ⟨hlen, hidx, hctrl, hsum⟩ : SameAttempt .addr s.framer t.framer := hp ▸ h.framer.attempt
  have hbody : SameBody 0 (addrByte b s).framer (addrByte b t).framer :=
    ⟨⟨hlen, hidx, hctrl, congrArg (· + b) hsum⟩, rfl, rfl⟩
  have hphase : (addrByte b s).framer.fphase = (addrByte b t).framer.fphase := by simp only [addrByte, hlen]
  refine ⟨⟨hphase, h.framer.window, ?attempt, h.framer.canonical⟩, h.reasm, h.fatal, h.params, h.events⟩
  by_cases hl : Config.LEN_OVERHEAD < s.framer.flen.toNat
  · rw [show (addrByte b s).framer.fphase = .payload from if_pos hl]
    have hnone : (addrByte b s).framer.fidx.toNat = 0 := congrArg BitVec.toNat (hi.start (.inr hp))
    rwa [SameAttempt, hnone]
  · rw [show (addrByte b s).framer.fphase = .chk from if_neg hl]
    have hnone : (addrByte b s).framer.flen.toNat - Config.LEN_OVERHEAD = 0 := Nat.sub_eq_zero_of_le (Nat.not_lt.mp hl)
    rwa [SameAttempt, hnone]

theorem storePayload_alike (h : Alike s t) (hp : s.framer.fphase = .payload) (hin : s.framer.fidx.toNat < Config.PAYLOAD_MAX)
    (b : Byte) : Alike (storePayload b s) (storePayload b t) := by
  obtain ⟨⟨hlen, hidx, hctrl, hsum⟩, haddr, hstored⟩ : SameAttempt .payload s.framer t.framer := hp ▸ h.framer.attempt
  obtain ⟨hwf, hwf'⟩ := h.framer.canonical
  have hbody : SameBody (s.framer.fidx.toNat + 1) (storePayload b s).framer (storePayload b t).framer := by
    refine ⟨⟨hlen, congrArg (· + 1#8) hidx, hctrl, congrArg (· + b) hsum⟩, haddr, ?_⟩
    rw [storePayload_fbuf, storePayload_fbuf, ← hidx, Memory.prefixBytes_write _ _ _ hwf, Memory.prefixBytes_write _ _ _ hwf',
      hstored]
  have hphase : (storePayload b s).framer.fphase = (storePayload b t).framer.fphase :=
    congrArg₂ (fun i len : Byte => if i.toNat + 1 = len.toNat - Config.LEN_OVERHEAD then FPhase.chk else FPhase.payload)
      hidx hlen
  refine ⟨⟨hphase, h.framer.window, ?attempt, Memory.wf_write _ _ _ hwf, Memory.wf_write _ _ _ hwf'⟩,
    h.reasm, h.fatal, h.params, rfl⟩
  by_cases hl : s.framer.fidx.toNat + 1 = payloadLen s
  · rw [show (storePayload b s).framer.fphase = .chk from if_pos hl]
    rw [hl] at hbody
    exact hbody
  · rw [show (storePayload b s).framer.fphase = .payload from if_neg hl]
    rwa [SameAttempt, storePayload_fidx, toNat_add_one_of_inBuffer hin]

theorem chkByte_alike (h : Alike s t) (hp : s.framer.fphase = .chk) (b : Byte) : Alike (chkByte b s) (chkByte b t) := by
  have hbody : SameAttempt .chk s.framer t.framer := hp ▸ h.framer.attempt
  exact ⟨⟨rfl, h.framer.window, ⟨hbody, rfl⟩, h.framer.canonical⟩, h.reasm, h.fatal, h.params, h.events⟩

/-- After the attempt only the window of the framer is read again (R87, R89). -/
theorem toHunt_alike (h : Alike s t) : Alike (toHunt s) (toHunt t) :=
  ⟨⟨rfl, h.framer.window, trivial, h.framer.canonical⟩, h.reasm, h.fatal, h.params, h.events⟩

/-- In STOP both framers hold the same frame, and compare the same checksums (R87, R88). -/
theorem FramerAlike.held_frame_eq (h : FramerAlike s.framer t.framer) (hp : s.framer.fphase = .stop) :
    s.framer.fchk = t.framer.fchk ∧ s.framer.fsum = t.framer.fsum ∧
      linkFrame s.framer.fchk s = linkFrame t.framer.fchk t := by
  obtain ⟨⟨⟨hlen, -, hctrl, hsum⟩, haddr, hstored⟩, hchk⟩ : SameAttempt .stop s.framer t.framer := hp ▸ h.attempt
  refine ⟨hchk, hsum, ?_⟩
  rw [hlen] at hstored
  simp only [linkFrame, payloadLen, hlen, hctrl, haddr, hchk, hstored]

/-! ## A symbol, and a run -/

theorem fatalEos_alike (h : Alike s t) : Alike (fatalEos s) (fatalEos t) :=
  ⟨h.framer, h.reasm, rfl, h.params, by simp [h.events]⟩

theorem fatalErr_alike (h : Alike s t) : Alike (fatalErr s) (fatalErr t) :=
  ⟨h.framer, h.reasm, rfl, h.params, by simp [h.events]⟩

theorem consume_hunt_alike (h : Alike (clearEvents s) (clearEvents t)) (hf : s.fatal = .none) (hp : s.framer.fphase = .hunt)
    (b : Byte) : AnswerAlike (consume (.byte b) s) (consume (.byte b) t) := by
  have hf' : t.fatal = .none := h.fatal.symm.trans hf
  have hp' : t.framer.fphase = .hunt := h.framer.phase.symm.trans hp
  have hshift := huntShift_alike h hp b
  have hiff := h.framer.window.completesHeader_iff b
  by_cases hdr : CompletesHeader b s.framer
  · obtain ⟨-, -, h2, -⟩ := h.framer.window
    have ⟨hfull, _⟩ := hdr
    have hlen : s.framer.w2 = t.framer.w2 := h2 (Nat.le_of_succ_le hfull)
    rw [consume_hunt_of_header hf hp hdr, consume_hunt_of_header hf' hp' (hiff.mp hdr), hlen]
    exact (beginAttempt_alike hshift _).answer
  · rw [consume_hunt_of_no_header hf hp hdr, consume_hunt_of_no_header hf' hp' (mt hiff.mpr hdr)]
    exact hshift.answer

theorem consume_stop_alike (h : Alike (clearEvents s) (clearEvents t)) (hf : s.fatal = .none) (hp : s.framer.fphase = .stop)
    (b : Byte) : AnswerAlike (consume (.byte b) s) (consume (.byte b) t) := by
  have hf' : t.fatal = .none := h.fatal.symm.trans hf
  have hp' : t.framer.fphase = .stop := h.framer.phase.symm.trans hp
  obtain ⟨hchk, hsum, hframe⟩ := FramerAlike.held_frame_eq (s := s) (t := t) h.framer hp
  by_cases hb : b = Config.STOP
  · subst hb
    by_cases hc : s.framer.fchk = s.framer.fsum
    · have hc' : t.framer.fchk = t.framer.fsum := hchk.symm.trans (hc.trans hsum)
      rw [consume_stop_of_valid hf hp hc, consume_stop_of_valid hf' hp' hc', hframe]
      exact deliver_alike (raise_alike (toHunt_alike h) _) _
    · have hc' : t.framer.fchk ≠ t.framer.fsum := fun e => hc (hchk.trans (e.trans hsum.symm))
      rw [consume_stop_of_badChecksum hf hp hc, consume_stop_of_badChecksum hf' hp' hc', hchk, hsum]
      exact (raise_alike (toHunt_alike h) _).answer
  · rw [consume_stop_of_badStop hf hp hb, consume_stop_of_badStop hf' hp' hb]
    exact (raise_alike (toHunt_alike h) _).answer

/-- From states alike but for the events of the last step a symbol makes states alike, events included: what a phase reads, the
attempt has set in both. -/
theorem consume_alike (h : Alike (clearEvents s) (clearEvents t)) (hi : BodyIndexed s.framer) (x : InSym) :
    AnswerAlike (consume x s) (consume x t) := by
  have hfatal : s.fatal = t.fatal := h.fatal
  by_cases hf : s.fatal = .none
  swap
  · rw [consume_fatal hf, consume_fatal (hfatal ▸ hf)]
    exact h.answer
  have hf' : t.fatal = .none := hfatal.symm.trans hf
  cases x with
  | eos =>
    rw [consume_eos hf, consume_eos hf']
    exact (fatalEos_alike h).answer
  | err =>
    rw [consume_err hf, consume_err hf']
    exact (fatalErr_alike h).answer
  | byte b =>
    have hphase : s.framer.fphase = t.framer.fphase := h.framer.phase
    cases hp : s.framer.fphase with
    | hunt => exact consume_hunt_alike h hf hp b
    | ctrl =>
      rw [consume_ctrl hf hp, consume_ctrl hf' (hphase.symm.trans hp)]
      exact (ctrlByte_alike h hp b).answer
    | addr =>
      rw [consume_addr hf hp, consume_addr hf' (hphase.symm.trans hp)]
      exact (addrByte_alike h hi hp b).answer
    | payload =>
      obtain ⟨⟨-, hidx, -⟩, -⟩ : SameAttempt .payload s.framer t.framer := hp ▸ h.framer.attempt
      have hin := hi.inBuffer hp
      rw [consume_payload_inBuffer hf hp hin, consume_payload_inBuffer hf' (hphase.symm.trans hp) (hidx ▸ hin)]
      exact (storePayload_alike h hp hin b).answer
    | chk =>
      rw [consume_chk hf hp, consume_chk hf' (hphase.symm.trans hp)]
      exact (chkByte_alike h hp b).answer
    | stop => exact consume_stop_alike h hf hp b

/-- Runs on the same symbols, from states alike but for the last events, raise the same events. -/
theorem runSymbols_alike (xs : List InSym) (h : Alike (clearEvents s) (clearEvents t)) (hi : BodyIndexed s.framer) :
    ∃ u v es, runSymbols xs s = some (u, es) ∧ runSymbols xs t = some (v, es) := by
  induction xs generalizing s t with
  | nil => exact ⟨s, t, [], rfl, rfl⟩
  | cons x xs ih =>
    obtain ⟨s', t', hs, ht, h'⟩ := consume_alike h hi x
    obtain ⟨w, hw, hi', -⟩ := consume_next hi x
    cases hw.symm.trans hs
    obtain ⟨u, v, es, hu, hv⟩ := ih ⟨h'.framer, h'.reasm, h'.fatal, h'.params, rfl⟩ hi'
    exact ⟨u, v, _, runSymbols_cons hs hu, h'.events ▸ runSymbols_cons ht hv⟩

/-- Between frames and messages the block and the block after a reset are alike: the window is empty, and HUNT and Idle read none of
the registers that R33 leaves unspecified (R89, R171). -/
theorem resetBlock_alike (hwf : Memory.wf s.framer.fbuf = true) (hs : betweenFrames s) (hm : betweenMessages s) :
    Alike (clearEvents s) (clearEvents (resetBlock s)) := by
  obtain ⟨hp, hw, hf⟩ := hs
  obtain ⟨hstate, hexp, hbuf⟩ := hm
  have hwindow : SameWindow s.framer (resetBlock s).framer := ⟨hw, by omega, by omega, by omega⟩
  have hattempt : SameAttempt s.framer.fphase s.framer (resetBlock s).framer := by rw [hp]; trivial
  exact ⟨⟨hp, hwindow, hattempt, hwf, rfl⟩, ⟨hstate, hexp, hbuf, by simp [hstate]⟩, hf, rfl, rfl⟩

/-- Settles O47: reset changes only registers that are written before they are read, so no later event differs. -/
theorem resetBetweenMessagesChangesNoOutput : Obligations.ResetBetweenMessagesChangesNoOutput := by
  intro s xs hwf hs hm
  have ⟨hp, _⟩ := hs
  exact runSymbols_alike xs (resetBlock_alike hwf hs hm) (.of_phase (.inl hp))

end Sys2Proof.Machine
end

section
/-! SUPPORT. The meanings of SEG and SEGF, a rule for each outcome of an expected or unexpected number (O23 to O27, O29). -/
namespace Sys2Proof.Machine

@[simp] theorem exec_seg (rsv : BitVec 3) (seq : Seq) (src dst : Byte) (data : List Byte) (s : State) :
    exec (.seg rsv seq src dst data) s = execSeg rsv seq src dst data s := rfl

@[simp] theorem exec_segf (rsv : BitVec 3) (seq : Seq) (src dst : Byte) (data : List Byte) (s : State) :
    exec (.segf rsv seq src dst data) s = execSegf rsv seq src dst data s := rfl

/-! ## What a segment reads of the state -/

theorem expectation_eq_ite (s : State) : expectation s = if s.reasm.rstate = .idle then 0#4 else s.reasm.rexp := by
  cases hr : s.reasm.rstate <;> simp [expectation, hr]

theorem expectation_of_idle {s : State} (hr : s.reasm.rstate = .idle) : expectation s = 0#4 := by simp [expectation, hr]

theorem expectation_of_assembling {s : State} (hr : s.reasm.rstate = .assembling) : expectation s = s.reasm.rexp := by
  simp [expectation, hr]

theorem assembled_of_idle {s : State} (hr : s.reasm.rstate = .idle) (src dst : Byte) (data : List Byte) :
    assembled src dst data s = ⟨src, dst, data⟩ := by simp [assembled, hr]

theorem assembled_of_assembling {s : State} (hr : s.reasm.rstate = .assembling) (src dst : Byte) (data : List Byte) :
    assembled src dst data s = ⟨s.reasm.msrc, s.reasm.mdst, s.reasm.mbuf ++ data⟩ := by simp [assembled, hr]

theorem exceedsCap_eq_false_iff {p : Params} {n : Nat} : exceedsCap p n = false ↔ ∀ cap, p.msgCap = some cap → n ≤ cap := by
  cases hc : p.msgCap <;> simp [exceedsCap, hc]

theorem exceedsCap_of_infinite {p : Params} (hc : p.msgCap = none) (n : Nat) : exceedsCap p n = false := by
  simp [exceedsCap, hc]

theorem exceedsCap_of_lt {p : Params} {cap n : Nat} (hc : p.msgCap = some cap) (h : cap < n) : exceedsCap p n = true := by
  simp [exceedsCap, hc, h]

/-- In Idle the message fits when the segment's own data does (R108). -/
theorem own_message_fits {s : State} {src dst : Byte} {data : List Byte} (hr : s.reasm.rstate = .idle)
    (hcap : ∀ cap, s.params.msgCap = some cap → data.length ≤ cap) :
    exceedsCap s.params (assembled src dst data s).buf.length = false := by
  rw [assembled_of_idle hr]
  exact exceedsCap_eq_false_iff.mpr hcap

/-- While assembling the message fits when the stored data and the segment's own do (R108). -/
theorem extended_message_fits {s : State} {src dst : Byte} {data : List Byte} (hr : s.reasm.rstate = .assembling)
    (hcap : ∀ cap, s.params.msgCap = some cap → s.reasm.mbuf.length + data.length ≤ cap) :
    exceedsCap s.params (assembled src dst data s).buf.length = false := by
  rw [assembled_of_assembling hr, List.length_append]
  exact exceedsCap_eq_false_iff.mpr hcap

/-! ## The outcomes -/

section
variable {s : State} (rsv : BitVec 3) {seq : Seq} {src dst : Byte} {data : List Byte}

theorem execSeg_of_mismatch (hq : seq ≠ expectation s) :
    execSeg rsv seq src dst data s = .next (dropWith (.seqMismatch seq (expectation s)) s) := if_pos hq

theorem execSegf_of_mismatch (hq : seq ≠ expectation s) :
    execSegf rsv seq src dst data s = .next (dropWith (.seqMismatch seq (expectation s)) s) := if_pos hq

theorem execSeg_of_overflow (hq : seq = expectation s) (hc : exceedsCap s.params (assembled src dst data s).buf.length = true) :
    execSeg rsv seq src dst data s = .next (dropWith .msgOverflow s) := (if_neg (not_not.mpr hq)).trans (if_pos hc)

theorem execSegf_of_overflow (hq : seq = expectation s) (hc : exceedsCap s.params (assembled src dst data s).buf.length = true) :
    execSegf rsv seq src dst data s = .next (dropWith .msgOverflow s) := (if_neg (not_not.mpr hq)).trans (if_pos hc)

/-- The state after an accepted SEG: a message started in Idle, extended otherwise (R103). -/
def acceptSegment (src dst : Byte) (data : List Byte) (s : State) : State :=
  match s.reasm.rstate with
  | .idle => startMessage src dst data s
  | .assembling => appendSegment data s

@[simp] theorem acceptSegment_framer : (acceptSegment src dst data s).framer = s.framer := by
  cases hr : s.reasm.rstate <;> simp [acceptSegment, hr]

@[simp] theorem acceptSegment_events : (acceptSegment src dst data s).events = s.events := by
  cases hr : s.reasm.rstate <;> simp [acceptSegment, hr]

@[simp] theorem acceptSegment_params : (acceptSegment src dst data s).params = s.params := by
  cases hr : s.reasm.rstate <;> simp [acceptSegment, hr]

theorem acceptSegment_of_idle (hr : s.reasm.rstate = .idle) : acceptSegment src dst data s = startMessage src dst data s := by
  simp [acceptSegment, hr]

theorem acceptSegment_of_assembling (hr : s.reasm.rstate = .assembling) : acceptSegment src dst data s = appendSegment data s := by
  simp [acceptSegment, hr]

theorem execSeg_of_accepted (hq : seq = expectation s) (hc : exceedsCap s.params (assembled src dst data s).buf.length = false) :
    execSeg rsv seq src dst data s = .next (acceptSegment src dst data s) := by
  cases hr : s.reasm.rstate <;> simp [execSeg, acceptSegment, hq, hc, hr]

theorem execSegf_of_accepted (hq : seq = expectation s) (hc : exceedsCap s.params (assembled src dst data s).buf.length = false) :
    execSegf rsv seq src dst data s = .next (raise (.message (assembled src dst data s)) (toIdle s)) := by
  simp [execSegf, hq, hc]

/-- While assembling, no outcome of SEG writes the identifiers (R103, R106, R108, R110). -/
theorem execSeg_keeps_ids (hr : s.reasm.rstate = .assembling) {t : State} (h : execSeg rsv seq src dst data s = .next t) :
    t.reasm.msrc = s.reasm.msrc ∧ t.reasm.mdst = s.reasm.mdst := by
  rcases execSeg_cases rsv seq src dst data s with ⟨-, e⟩ | ⟨-, -, e⟩ | ⟨-, -, hidle, -⟩ | ⟨-, -, -, e⟩
  · cases e.symm.trans h; simp
  · cases e.symm.trans h; simp
  · cases hr.symm.trans hidle
  · cases e.symm.trans h; simp

/-- No outcome of SEGF writes the identifiers (R104, R106, R108). -/
theorem execSegf_keeps_ids {t : State} (h : execSegf rsv seq src dst data s = .next t) :
    t.reasm.msrc = s.reasm.msrc ∧ t.reasm.mdst = s.reasm.mdst := by
  rcases execSegf_cases rsv seq src dst data s with ⟨-, e⟩ | ⟨-, -, e⟩ | ⟨-, -, e⟩ <;> cases e.symm.trans h <;> simp

end

/-! ## The statements about one segment -/

/-- Settles O29: while assembling, both meanings read the segment through the message it would make, which has the stored identifiers. -/
theorem continuationIdentifiersAreIgnored : Obligations.ContinuationIdentifiersAreIgnored := by
  intro rsv seq src dst src' dst' data s hr
  refine ⟨?_, ?_, fun t ht => execSeg_keeps_ids rsv hr ht, fun t ht => execSegf_keeps_ids rsv ht⟩
  · simp [execSeg, assembled_of_assembling hr, hr]
  · simp [execSegf, assembled_of_assembling hr]

/-- Settles O23: 0 is expected in Idle, and the message is the segment's own data. -/
theorem segStartsAMessage : Obligations.SegStartsAMessage := by
  intro rsv src dst data s hr hcap
  rw [exec_seg, execSeg_of_accepted rsv (expectation_of_idle hr).symm (own_message_fits hr hcap), acceptSegment_of_idle hr, startMessage]

/-- Settles O24: the number is the expected one and the extended message fits; a 4-bit increment is the increment modulo 16. -/
theorem segContinuesTheMessage : Obligations.SegContinuesTheMessage := by
  intro rsv src dst data s hr hcap
  refine ⟨appendSegment data s, ?_, BitVec.toNat_add .., rfl⟩
  rw [exec_seg, execSeg_of_accepted rsv (expectation_of_assembling hr).symm (extended_message_fits hr hcap), acceptSegment_of_assembling hr]

/-- Settles O25: an accepted SEGF emits the message it makes, from Idle its own, otherwise the one in progress extended. -/
theorem segfEmitsTheMessage : Obligations.SegfEmitsTheMessage := by
  refine ⟨fun rsv src dst data s hr hcap => ?_, fun rsv src dst data s hr hcap => ?_⟩
  · rw [exec_segf, execSegf_of_accepted rsv (expectation_of_idle hr).symm (own_message_fits hr hcap), assembled_of_idle hr]
    rfl
  · rw [exec_segf, execSegf_of_accepted rsv (expectation_of_assembling hr).symm (extended_message_fits hr hcap), assembled_of_assembling hr]
    rfl

/-- Settles O26: both meanings compare the number before they use any other operand. -/
theorem mismatchDropsTheMessage : Obligations.MismatchDropsTheMessage := by
  intro rsv seq expect src dst data s hexp hne
  rw [← expectation_eq_ite] at hexp
  subst hexp
  exact ⟨execSeg_of_mismatch rsv hne, (execSegf_of_mismatch rsv hne).trans (execSeg_of_mismatch rsv hne).symm⟩

/-- With an infinite capacity neither meaning of a segment appends MSG_OVERFLOW (R108). -/
theorem no_overflow_of_infinite {i : Instr} {s t : State} {es : List OutEvent} (hi : i.slot = .segment)
    (hc : s.params.msgCap = none) (ht : exec i s = .next t) (hes : t.events = s.events ++ es) : .msgOverflow ∉ es := by
  have happended : ∀ fs, t.events = s.events ++ fs → es = fs := fun fs hfs => List.append_cancel_left (hes.symm.trans hfs)
  cases i with
  | frameHdr len1 len2 => cases hi
  | frameTrl chk => cases hi
  | seg rsv seq src dst data =>
    by_cases hq : seq = expectation s
    · cases (execSeg_of_accepted rsv hq (exceedsCap_of_infinite hc _)).symm.trans ht
      rw [happended [] (by simp)]
      simp
    · cases (execSeg_of_mismatch rsv hq).symm.trans ht
      rw [happended _ (dropWith_events ..)]
      simp
  | segf rsv seq src dst data =>
    by_cases hq : seq = expectation s
    · cases (execSegf_of_accepted rsv hq (exceedsCap_of_infinite hc _)).symm.trans ht
      rw [happended _ (raise_events ..)]
      simp
    · cases (execSegf_of_mismatch rsv hq).symm.trans ht
      rw [happended _ (dropWith_events ..)]
      simp

/-- Settles O27: the number is the expected one, so the length of the message is what is tested next. -/
theorem overflowDropsTheMessage : Obligations.OverflowDropsTheMessage := by
  refine ⟨fun rsv seq src dst data s cap hcap hq hlong => ?_, fun i s t es hi hc ht hes => no_overflow_of_infinite hi hc ht hes⟩
  rw [← expectation_eq_ite] at hq
  have hover : exceedsCap s.params (assembled src dst data s).buf.length = true := by
    refine exceedsCap_of_lt hcap ?_
    rcases hlong with ⟨hr, hlt⟩ | ⟨hr, hlt⟩
    · rwa [assembled_of_idle hr]
    · rwa [assembled_of_assembling hr, List.length_append]
  exact ⟨execSeg_of_overflow rsv hq hover, (execSegf_of_overflow rsv hq hover).trans (execSeg_of_overflow rsv hq hover).symm⟩

end Sys2Proof.Machine
end

section
/-! SUPPORT. The reassembler over a run: only a delivery moves it, and the segments of a message make the message (O31, O32). -/
namespace Sys2Proof.Machine

/-- Settles O31: among the effects of a symbol, the one that delivers a payload begins with FRAME_OK. -/
theorem onlyADeliveryChangesTheReassembler : Obligations.OnlyADeliveryChangesTheReassembler := by
  intro x s t ht hno
  rcases consume_cases ht with ⟨-, hr, -⟩ | ⟨-, hr, -⟩ | ⟨-, hr, -⟩ | ⟨-, ⟨-, -, -, hr, -⟩ | ⟨-, hr, -⟩ | ⟨f, es, -, -, hev, -⟩⟩
  · exact hr
  · exact hr
  · exact hr
  · exact hr
  · exact hr
  · exact absurd (hev ▸ List.mem_cons_self) (hno f)

/-! ## An accepted segment as a part of the message -/

section
variable (src dst : Byte) (data : List Byte) (s : State)

/-- The numbers count up modulo 16 from the 0 of Idle (R103, R109). -/
@[simp] theorem expectation_acceptSegment : expectation (acceptSegment src dst data s) = expectation s + 1#4 := by
  cases hr : s.reasm.rstate <;> simp [acceptSegment, expectation, hr]

/-- The message that the next segment makes is the one that this segment would make with the data of both (R103, R110). -/
@[simp] theorem assembled_acceptSegment (src' dst' : Byte) (data' : List Byte) :
    assembled src' dst' data' (acceptSegment src dst data s) = assembled src dst (data ++ data') s := by
  cases hr : s.reasm.rstate <;> simp [acceptSegment, assembled, hr]

end

/-! ## The segments of a message -/

theorem deliver_seg (seq : Seq) (src dst : Byte) (data : List Byte) (s : State) :
    deliver (segmentBytes seq false src dst data) s = execSeg 0#3 seq src dst data s := by
  rw [deliver, parseSegment_segmentBytes]

theorem deliver_segf (seq : Seq) (src dst : Byte) (data : List Byte) (s : State) :
    deliver (segmentBytes seq true src dst data) s = execSegf 0#3 seq src dst data s := by
  rw [deliver, parseSegment_segmentBytes]

theorem deliverAll_cons {p : List Byte} {ps : List (List Byte)} {s t : State} (h : deliver p s = .next t) :
    deliverAll (p :: ps) s = deliverAll ps t := by
  simp [deliverAll, h]

/-- From `s` to `u` the message `m` came out, once, and the reassembler is between messages. -/
structure MessageEmitted (m : LogicalMessage) (s u : State) : Prop where
  events : u.events = s.events ++ [.message m]
  idle : betweenMessages u
  framer : u.framer = s.framer

theorem raise_message_emitted (m : LogicalMessage) (s : State) : MessageEmitted m s (raise (.message m) (toIdle s)) :=
  ⟨raise_events .., ⟨rfl, rfl, rfl⟩, rfl⟩

/-- Segments numbered from the expected number make the message that the first of them would make with the data of all: in Idle a new
message, while assembling the rest of the one in progress (R103 to R105, R109). -/
theorem deliverAll_messagePayloads (first : Byte × Byte × List Byte) (more : List (Byte × Byte × List Byte)) {s : State}
    (hc : s.params.msgCap = none) :
    ∃ u, deliverAll (messagePayloads (expectation s) (first :: more)) s = some u ∧
      MessageEmitted (assembled first.1 first.2.1 ((first :: more).flatMap fun g => g.2.2) s) s u := by
  induction more generalizing first s with
  | nil =>
    have hlast := execSegf_of_accepted 0#3 (src := first.1) (dst := first.2.1) (data := first.2.2) rfl
      (exceedsCap_of_infinite hc _)
    refine ⟨_, deliverAll_cons ((deliver_segf ..).trans hlast), ?_⟩
    rw [List.flatMap_singleton]
    exact raise_message_emitted ..
  | cons second more ih =>
    have hfirst := execSeg_of_accepted 0#3 (src := first.1) (dst := first.2.1) (data := first.2.2) rfl
      (exceedsCap_of_infinite hc _)
    obtain ⟨u, hu, hout⟩ := ih second (s := acceptSegment first.1 first.2.1 first.2.2 s) (by simpa using hc)
    rw [expectation_acceptSegment] at hu
    refine ⟨u, (deliverAll_cons ((deliver_seg ..).trans hfirst)).trans hu, ?_⟩
    rw [assembled_acceptSegment, ← List.flatMap_cons (f := fun g : Byte × Byte × List Byte => g.2.2)] at hout
    exact ⟨by simpa using hout.events, hout.idle, by simpa using hout.framer⟩

/-- Settles O32: in Idle the expected number is 0 and the message is the segments' own. -/
theorem segmentedMessageIsReassembled : Obligations.SegmentedMessageIsReassembled := by
  intro first more s hs hc
  obtain ⟨hidle, -⟩ := hs
  obtain ⟨u, hu, hout⟩ := deliverAll_messagePayloads first more hc
  rw [expectation_of_idle hidle] at hu
  rw [assembled_of_idle hidle] at hout
  exact ⟨u, hu, hout.events, hout.idle, hout.framer⟩

end Sys2Proof.Machine
end

section
/-! SUPPORT. The size field of an envelope, read at any offset (O48). -/
namespace Sys2Proof.Downstream

/-- A first byte up to 0x7F is the value, and nothing more is read (R125). -/
theorem sizeFieldAt_of_short {B : List Byte} {off : Nat} {b : Byte} (h : byteAt B off = .ok b) (hb : b.toNat ≤ 0x7F) :
    sizeFieldAt B off = .ok (0, b.toNat) := by
  simp [sizeFieldAt, h, hb, bind, Except.bind, pure, Except.pure]

/-- A first byte from 0x80 on counts the bytes of the value, which must stand behind it (R125, R129). -/
theorem sizeFieldAt_of_long {B : List Byte} {off : Nat} {b : Byte} (h : byteAt B off = .ok b) (hb : 0x80 ≤ b.toNat) :
    sizeFieldAt B off = (slice B (off + 1) (b.toNat - 0x80)).map fun bs => (b.toNat - 0x80, bigEndian bs) := by
  obtain ⟨hc, hl⟩ := sizeCount b hb
  simp only [sizeFieldAt, h, bind, Except.bind, hl, if_false, hc]
  cases slice B (off + 1) (b.toNat - 0x80) <;> rfl

/-- The bytes `size` are a size field of `1 + c` bytes and of the value `v`, wherever they stand (R125). -/
structure EncodesSize (size : List Byte) (c v : Nat) : Prop where
  length : size.length = 1 + c
  reads : ∀ (pre rest : List Byte) (off : Nat), off = pre.length → sizeFieldAt (pre ++ (size ++ rest)) off = .ok (c, v)

theorem encodesSize_short {v : Nat} (hv : v ≤ 0x7F) : EncodesSize [BitVec.ofNat 8 v] 0 v where
  length := rfl
  reads pre rest off ho := by
    have hb : (BitVec.ofNat 8 v).toNat = v := Nat.mod_eq_of_lt (by omega)
    have hfield := sizeFieldAt_of_short (byteAt_append pre (BitVec.ofNat 8 v) rest off ho) (by omega)
    rw [hb] at hfield
    exact hfield

theorem encodesSize_long {bs : List Byte} (hc : bs.length < 128) :
    EncodesSize (BitVec.ofNat 8 (0x80 + bs.length) :: bs) bs.length
      ((List.range bs.length).map fun i => (bs.getD i 0#8).toNat * 256 ^ (bs.length - 1 - i)).sum where
  length := Nat.add_comm ..
  reads pre rest off ho := by
    have hb : (BitVec.ofNat 8 (0x80 + bs.length)).toNat = 0x80 + bs.length := Nat.mod_eq_of_lt (by omega)
    have hfield := sizeFieldAt_of_long (byteAt_append pre (BitVec.ofNat 8 (0x80 + bs.length)) (bs ++ rest) off ho) (by omega)
    have hslice := slice_append (pre ++ [BitVec.ofNat 8 (0x80 + bs.length)]) bs rest (off + 1) bs.length (by simp [ho]) rfl
    rw [List.append_assoc] at hslice
    rw [hb, Nat.add_sub_cancel_left] at hfield
    rw [← bigEndian_eq]
    exact hfield.trans (congrArg (Except.map _) hslice)

/-- Settles O48: the clauses are the two forms of the field. -/
theorem sizeFieldIsDecoded : Obligations.SizeFieldIsDecoded :=
  ⟨fun _ _ h hb => sizeFieldAt_of_short (byteAt_inside h) hb, fun pre _ rest hc => (encodesSize_long hc).reads pre rest _ rfl⟩

end Sys2Proof.Downstream
end

section
/-! SUPPORT. The envelope's accessors, each as one read of the buffer, and the order in which `decrypt` uses them (O49, O51). -/
namespace Sys2Proof.Downstream

open Machine (sizeFieldUnreadable)

/-! ## The accessors, once what comes before them is read -/

theorem systemTitle_eq {B : List Byte} {n : Nat} (hn : titleLength B = .ok n) : systemTitle B = slice B 2 n := by
  simp [systemTitle, hn, bind, Except.bind]

theorem sizeField_eq {B : List Byte} {n : Nat} (hn : titleLength B = .ok n) : sizeField B = sizeFieldAt B (2 + n) := by
  simp [sizeField, hn, bind, Except.bind]

section
variable {B : List Byte} {n c v : Nat} (hn : titleLength B = .ok n) (hs : sizeField B = .ok (c, v))
include hn hs

theorem securityControl_eq : securityControl B = byteAt B (2 + n + 1 + c) := by
  simp [securityControl, securityOffset_eq hn hs, bind, Except.bind]

theorem counterBytes_eq : counterBytes B = slice B (2 + n + 1 + c + 1) 4 := by
  simp [counterBytes, securityOffset_eq hn hs, bind, Except.bind]

theorem ciphertext_eq :
    ciphertext B = if v < 5 then .error (.sizeBelowFive v) else slice B (2 + n + 1 + c + 5) (v - 5) := by
  simp [ciphertext, securityOffset_eq hn hs, hs, bind, Except.bind]

end

/-! ## Errors of the fields that the others stand behind -/

theorem titleLength_error {B : List Byte} {e : EnvelopeError} (h : titleLength B = .error e) :
    systemTitle B = .error e ∧ sizeField B = .error e := by
  simp [systemTitle, sizeField, h, bind, Except.bind]

/-- Every field behind the size field has an offset that its count moves, so its error is theirs (R121, R129). -/
theorem sizeFieldUnreadable_of_error {B : List Byte} {e : EnvelopeError} (h : sizeField B = .error e) : sizeFieldUnreadable e B := by
  have hs : securityOffset B = .error e := by
    cases ht : titleLength B with
    | error e' =>
      obtain ⟨-, hsize⟩ := titleLength_error ht
      cases hsize.symm.trans h
      rw [securityOffset, ht]
      rfl
    | ok n => simp [securityOffset, ht, h, bind, Except.bind]
  simp [sizeFieldUnreadable, securityControl, counterBytes, frameCounter, ciphertext, h, hs, bind, Except.bind, Except.map]

theorem fields_of_securityControl {B : List Byte} {b : Byte} (h : securityControl B = .ok b) :
    ∃ n c v, titleLength B = .ok n ∧ sizeField B = .ok (c, v) := by
  cases hs : sizeField B with
  | error e =>
    obtain ⟨-, hcontrol, -⟩ := sizeFieldUnreadable_of_error hs
    simp [hcontrol] at h
  | ok size =>
    cases hn : titleLength B with
    | error e =>
      obtain ⟨-, hsize⟩ := titleLength_error hn
      simp [hsize] at hs
    | ok n => exact ⟨n, size.1, size.2, rfl, rfl⟩

theorem length_of_slice {B bs : List Byte} {off n : Nat} (h : slice B off n = .ok bs) : bs.length = n := by
  simp only [slice] at h
  split at h
  · cases h
    simp
    omega
  · cases h

/-- A missing offset among those of a slice is the one the slice names (R129). -/
theorem slice_names_missing {B : List Byte} {off n : Nat} (h0 : 0 < n) (h : B.length < off + n) :
    ∃ k, slice B off n = .error (.pastEnd k) ∧ off ≤ k ∧ B.length ≤ k ∧ k < off + n :=
  ⟨_, slice_outside h0 h, by omega, by omega, by omega⟩

/-- The title stands before the size field, so it is in the buffer when that field is. -/
theorem systemTitle_of_fields {B : List Byte} {n c v : Nat} (hn : titleLength B = .ok n) (hs : sizeField B = .ok (c, v)) :
    ∃ title, systemTitle B = .ok title ∧ title.length = n := by
  have hin := sizeField_inside hn hs
  have ht := systemTitle_eq hn
  rw [slice_inside (by omega)] at ht
  exact ⟨_, ht, by simp; omega⟩

/-! ## The order of `decrypt` -/

theorem decrypt_of_securityControl_error (key : List Byte) {m : LogicalMessage} {e : EnvelopeError}
    (h : securityControl m.buf = .error e) : decrypt key m = .error (.envelope e) := by
  simp [decrypt, h, access, bind, Except.bind]

theorem decrypt_of_unsupported (key : List Byte) {m : LogicalMessage} {control : Byte} (h : securityControl m.buf = .ok control)
    (hc : control ≠ ENCRYPTION_ONLY) : decrypt key m = .error (.unsupportedSecurityMode control) := by
  simp [decrypt, h, hc, access, bind, Except.bind]

theorem decrypt_of_nonce_error (key : List Byte) {m : LogicalMessage} {e : DecryptError}
    (h : securityControl m.buf = .ok ENCRYPTION_ONLY) (hn : nonce m.buf = .error e) : decrypt key m = .error e := by
  simp [decrypt, h, hn, access, bind, Except.bind]

theorem decrypt_of_nonce (key : List Byte) {m : LogicalMessage} {w : List Byte} (h : securityControl m.buf = .ok ENCRYPTION_ONLY)
    (hn : nonce m.buf = .ok w) :
    decrypt key m = (access (ciphertext m.buf)).map fun c => Config.aeadSeal key w ASSOCIATED_DATA c := by
  cases hc : ciphertext m.buf <;> simp [decrypt, h, hn, hc, access, bind, Except.bind, pure, Except.pure, Except.map]

theorem nonce_of_counterBytes_error {B title : List Byte} {e : EnvelopeError} (ht : systemTitle B = .ok title)
    (hk : counterBytes B = .error e) : nonce B = .error (.envelope e) := by
  simp [nonce, ht, hk, access, bind, Except.bind]

theorem nonce_eq {B title counter : List Byte} (ht : systemTitle B = .ok title) (hk : counterBytes B = .ok counter) :
    nonce B = if title.length + counter.length = 12 then .ok (title ++ counter)
      else .error (.nonceLength (title.length + counter.length)) := by
  simp [nonce, ht, hk, access, bind, Except.bind, pure, Except.pure, Config.AEAD_NONCE_LEN]

/-- Settles O49. -/
theorem unsupportedSecurityModeIsRefused : Obligations.UnsupportedSecurityModeIsRefused :=
  fun key _ _ h hc => decrypt_of_unsupported key h hc

end Sys2Proof.Downstream
end

section
/-! SUPPORT. An accessor that needs an offset past the end of the buffer fails and names one (O51). -/
namespace Sys2Proof.Downstream

open Machine (sizeFieldUnreadable)

theorem titleLength_outside {B : List Byte} (h : B.length ≤ 1) : titleLength B = .error (.pastEnd 1) := by
  simp [titleLength, byteAt_outside h, Except.map]

theorem sizeFieldAt_outside {B : List Byte} {off : Nat} (h : B.length ≤ off) : sizeFieldAt B off = .error (.pastEnd off) := by
  simp [sizeFieldAt, byteAt_outside h, bind, Except.bind]

theorem sizeFieldAt_names_missing {B : List Byte} {off : Nat} (h : off < B.length) (hb : 0x80 ≤ B[off].toNat)
    (hl : B.length < off + 1 + (B[off].toNat - 0x80)) :
    ∃ k, sizeFieldAt B off = .error (.pastEnd k) ∧ B.length ≤ k ∧ off + 1 ≤ k ∧ k < off + 1 + (B[off].toNat - 0x80) := by
  obtain ⟨k, hk, hoff, hlen, hlt⟩ := slice_names_missing (by omega) hl
  refine ⟨k, ?_, hlen, hoff, hlt⟩
  rw [sizeFieldAt_of_long (byteAt_inside h) hb, hk]
  rfl

theorem frameCounter_error {B : List Byte} {e : EnvelopeError} (h : counterBytes B = .error e) : frameCounter B = .error e := by
  simp [frameCounter, h, Except.map]

section
variable {B : List Byte} {n : Nat} (hn : titleLength B = .ok n)
include hn

/-- The clause of O51 on the title and the size field. -/
theorem fields_up_to_the_size_field_boundsChecked :
    (B.length < 2 + n → ∃ k, systemTitle B = .error (.pastEnd k) ∧ B.length ≤ k ∧ 2 ≤ k ∧ k < 2 + n) ∧
    (B.length ≤ 2 + n → sizeFieldUnreadable (.pastEnd (2 + n)) B) ∧
    (∀ h : 2 + n < B.length, 0x80 ≤ B[2 + n].toNat → B.length < 2 + n + 1 + (B[2 + n].toNat - 0x80) →
      ∃ k, sizeFieldUnreadable (.pastEnd k) B ∧ B.length ≤ k ∧ 2 + n + 1 ≤ k ∧ k < 2 + n + 1 + (B[2 + n].toNat - 0x80)) := by
  refine ⟨fun hl => ?title, fun hl => ?start, fun h hb hl => ?behind⟩
  case title =>
    have hin : 1 < B.length := by
      by_contra h
      simp [titleLength_outside (Nat.le_of_not_lt h)] at hn
    obtain ⟨k, hk, hoff, hlen, hlt⟩ := slice_names_missing (off := 2) (n := n) (by omega) hl
    exact ⟨k, (systemTitle_eq hn).trans hk, hlen, hoff, hlt⟩
  case start => exact sizeFieldUnreadable_of_error ((sizeField_eq hn).trans (sizeFieldAt_outside hl))
  case behind =>
    obtain ⟨k, hk, hrange⟩ := sizeFieldAt_names_missing h hb hl
    exact ⟨k, sizeFieldUnreadable_of_error ((sizeField_eq hn).trans hk), hrange⟩

/-- The clause of O51 on the fields behind the size field. -/
theorem fields_behind_the_size_field_boundsChecked {c v : Nat} (hs : sizeField B = .ok (c, v)) :
    (B.length ≤ 2 + n + 1 + c → securityControl B = .error (.pastEnd (2 + n + 1 + c))) ∧
    (B.length < 2 + n + 1 + c + 5 → ∃ k, counterBytes B = .error (.pastEnd k) ∧ frameCounter B = .error (.pastEnd k) ∧
      B.length ≤ k ∧ 2 + n + 1 + c + 1 ≤ k ∧ k < 2 + n + 1 + c + 5) ∧
    (v < 5 → ciphertext B = .error (.sizeBelowFive v)) ∧
    (5 < v → B.length < 2 + n + 1 + c + v → ∃ k, ciphertext B = .error (.pastEnd k) ∧ B.length ≤ k ∧
      2 + n + 1 + c + 5 ≤ k ∧ k < 2 + n + 1 + c + v) := by
  refine ⟨fun hl => ?control, fun hl => ?counter, fun hv => ?below, fun hv hl => ?cipher⟩
  case control => exact (securityControl_eq hn hs).trans (byteAt_outside hl)
  case counter =>
    obtain ⟨k, hk, hoff, hlen, hlt⟩ := slice_names_missing (B := B) (off := 2 + n + 1 + c + 1) (n := 4) (by omega) (by omega)
    have hbytes := (counterBytes_eq hn hs).trans hk
    exact ⟨k, hbytes, frameCounter_error hbytes, hlen, hoff, by omega⟩
  case below => exact (ciphertext_eq hn hs).trans (if_pos hv)
  case cipher =>
    obtain ⟨k, hk, hoff, hlen, hlt⟩ := slice_names_missing (B := B) (off := 2 + n + 1 + c + 5) (n := v - 5) (by omega) (by omega)
    exact ⟨k, (ciphertext_eq hn hs).trans ((if_neg (by omega)).trans hk), hlen, hoff, by omega⟩

end

/-- An unreadable counter is what `decrypt` reports: the title, read first, is in the buffer when the security-control byte is. -/
theorem decrypt_of_counterBytes_error (key : List Byte) {m : LogicalMessage} {e : EnvelopeError}
    (h : securityControl m.buf = .ok ENCRYPTION_ONLY) (hk : counterBytes m.buf = .error e) :
    decrypt key m = .error (.envelope e) := by
  obtain ⟨n, c, v, hn, hs⟩ := fields_of_securityControl h
  obtain ⟨title, ht, -⟩ := systemTitle_of_fields hn hs
  exact decrypt_of_nonce_error key h (nonce_of_counterBytes_error ht hk)

/-- An unreadable ciphertext is what `decrypt` reports when title and counter make a nonce of 12 bytes. -/
theorem decrypt_of_ciphertext_error (key : List Byte) {m : LogicalMessage} {e : EnvelopeError} {counter : List Byte}
    (h : securityControl m.buf = .ok ENCRYPTION_ONLY) (hn : titleLength m.buf = .ok 8) (hk : counterBytes m.buf = .ok counter)
    (hc : ciphertext m.buf = .error e) : decrypt key m = .error (.envelope e) := by
  obtain ⟨_, c, v, -, hs⟩ := fields_of_securityControl h
  obtain ⟨title, ht, htitle⟩ := systemTitle_of_fields hn hs
  have hcounter : counter.length = 4 := length_of_slice ((counterBytes_eq hn hs).symm.trans hk)
  have hw := (nonce_eq ht hk).trans (if_pos (by omega))
  rw [decrypt_of_nonce key h hw, hc]
  rfl

/-- Settles O51, a clause per accessor and one for `decrypt`. -/
theorem envelopeAccessIsBoundsChecked : Obligations.EnvelopeAccessIsBoundsChecked := by
  refine ⟨fun _ _ => byteAt_outside, fun _ _ _ => slice_names_missing, fun B h => byteAt_outside (by omega), fun B h => ?_,
    fun _ _ => fields_up_to_the_size_field_boundsChecked, fun _ _ _ _ hn hs => fields_behind_the_size_field_boundsChecked hn hs,
    fun B key src dst e h => ?_⟩
  · have hn := titleLength_outside h
    obtain ⟨htitle, hsize⟩ := titleLength_error hn
    exact ⟨hn, htitle, sizeFieldUnreadable_of_error hsize⟩
  · rcases h with hcontrol | ⟨hcontrol, hk⟩ | ⟨hcontrol, hn, ⟨counter, hk⟩, hc⟩
    · exact decrypt_of_securityControl_error key hcontrol
    · exact decrypt_of_counterBytes_error key hcontrol hk
    · exact decrypt_of_ciphertext_error key hcontrol hn hk hc

end Sys2Proof.Downstream
end

section
/-! SUPPORT. The fields of an envelope that is written out as the table of R121 says, and its decryption (O50). -/
namespace Sys2Proof.Downstream

/-- The table of R121: the title's length is its second byte, and `size` is the size field in either form. -/
def envelope (service : Byte) (title size : List Byte) (control : Byte) (counter cipher tail : List Byte) : List Byte :=
  [service, BitVec.ofNat 8 title.length] ++ title ++ size ++ [control] ++ counter ++ cipher ++ tail

section
variable (service control : Byte) {title size counter cipher : List Byte} (tail : List Byte) {c v : Nat}

theorem cipheringService_envelope : cipheringService (envelope service title size control counter cipher tail) = .ok service :=
  rfl

variable (ht : title.length < 256)
include ht

theorem titleLength_envelope : titleLength (envelope service title size control counter cipher tail) = .ok title.length :=
  congrArg Except.ok (Nat.mod_eq_of_lt ht)

theorem systemTitle_envelope : systemTitle (envelope service title size control counter cipher tail) = .ok title := by
  rw [systemTitle_eq (titleLength_envelope _ _ _ ht)]
  simpa [envelope] using slice_append [service, BitVec.ofNat 8 title.length] title _ _ _ rfl rfl

variable (hz : EncodesSize size c v)
include hz

theorem sizeField_envelope : sizeField (envelope service title size control counter cipher tail) = .ok (c, v) := by
  rw [sizeField_eq (titleLength_envelope _ _ _ ht)]
  simpa [envelope] using hz.reads ([service, BitVec.ofNat 8 title.length] ++ title) (control :: (counter ++ (cipher ++ tail)))
    (2 + title.length) (by simp; omega)

theorem securityControl_envelope : securityControl (envelope service title size control counter cipher tail) = .ok control := by
  rw [securityControl_eq (titleLength_envelope _ _ _ ht) (sizeField_envelope _ _ _ ht hz)]
  have hlen := hz.length
  simpa [envelope] using byteAt_append ([service, BitVec.ofNat 8 title.length] ++ title ++ size) control
    (counter ++ (cipher ++ tail)) (2 + title.length + 1 + c) (by simp; omega)

variable (hk : counter.length = 4)
include hk

theorem counterBytes_envelope : counterBytes (envelope service title size control counter cipher tail) = .ok counter := by
  rw [counterBytes_eq (titleLength_envelope _ _ _ ht) (sizeField_envelope _ _ _ ht hz)]
  have hlen := hz.length
  simpa [envelope] using slice_append ([service, BitVec.ofNat 8 title.length] ++ title ++ size ++ [control]) counter
    (cipher ++ tail) (2 + title.length + 1 + c + 1) 4 (by simp; omega) hk.symm

theorem ciphertext_envelope (hv : v = cipher.length + 5) :
    ciphertext (envelope service title size control counter cipher tail) = .ok cipher := by
  rw [ciphertext_eq (titleLength_envelope _ _ _ ht) (sizeField_envelope _ _ _ ht hz), if_neg (by omega)]
  have hlen := hz.length
  simpa [envelope] using slice_append ([service, BitVec.ofNat 8 title.length] ++ title ++ size ++ [control] ++ counter) cipher
    tail (2 + title.length + 1 + c + 5) (v - 5) (by simp; omega) (by omega)

theorem nonce_envelope : nonce (envelope service title size control counter cipher tail) =
    if title.length = 8 then .ok (title ++ counter) else .error (.nonceLength (title.length + 4)) := by
  rw [nonce_eq (systemTitle_envelope _ _ _ ht) (counterBytes_envelope _ _ _ ht hz hk), hk]
  exact if_congr (by omega) rfl rfl

end

theorem bigEndian_four (c0 c1 c2 c3 : Byte) :
    bigEndian [c0, c1, c2, c3] = c0.toNat * 2 ^ 24 + c1.toNat * 2 ^ 16 + c2.toNat * 2 ^ 8 + c3.toNat := by
  simp [bigEndian]
  omega

/-- Settles O50: the two forms of the size field are the two ways to encode a size, and the rest does not depend on the form. -/
theorem envelopeFieldsStandWhereTheTableSays : Obligations.EnvelopeFieldsStandWhereTheTableSays := by
  intro service control c0 c1 c2 c3 src dst title size cipher tail key c B ht hsize hB
  have hz : EncodesSize size c (cipher.length + 5) := by
    rcases hsize with ⟨rfl, hv, rfl⟩ | ⟨bs, rfl, hc, rfl, hv⟩
    · exact encodesSize_short hv
    · exact hv ▸ encodesSize_long hc
  replace hB : B = envelope service title size control [c0, c1, c2, c3] cipher tail := by simp [hB, envelope]
  subst hB
  have hcounter := counterBytes_envelope service control (cipher := cipher) tail ht hz (counter := [c0, c1, c2, c3]) rfl
  have hcipher := ciphertext_envelope service control tail ht hz (counter := [c0, c1, c2, c3]) rfl rfl
  have hcontrol := securityControl_envelope service control (counter := [c0, c1, c2, c3]) (cipher := cipher) tail ht hz
  have hnonce := nonce_envelope service control (cipher := cipher) tail ht hz (counter := [c0, c1, c2, c3]) rfl
  refine ⟨rfl, titleLength_envelope _ _ _ ht, systemTitle_envelope _ _ _ ht, sizeField_envelope _ _ _ ht hz, hcontrol, hcounter,
    ?_, hcipher, fun hmode h8 => ?_, fun hmode h8 => ?_⟩
  · rw [frameCounter, hcounter, ← bigEndian_four]
    rfl
  · rw [decrypt_of_nonce key (hmode ▸ hcontrol) (hnonce.trans (if_pos h8)), hcipher]
    rfl
  · exact decrypt_of_nonce_error key (hmode ▸ hcontrol) (hnonce.trans (if_neg h8))

end Sys2Proof.Downstream
end

section
/-! SUPPORT. The events of one step and their order, and the stop after a fatal symbol (O33, O34). -/
namespace Sys2Proof.Machine

/-- The events alone of what a delivery appends. -/
theorem OneReasmEvent.events_eq {es : List OutEvent} {before after : Option LogicalMessage} (h : OneReasmEvent es before after) :
    es = [] ∨ (∃ n, es = [.runtSegment n]) ∨ (∃ g e, es = [.seqMismatch g e]) ∨ es = [.msgOverflow] ∨ ∃ m, es = [.message m] := by
  rcases h with ⟨he, -⟩ | ⟨n, he, -⟩ | ⟨g, x, he, -⟩ | ⟨he, -⟩ | ⟨m, he, -⟩
  · exact .inl he
  · exact .inr (.inl ⟨n, he⟩)
  · exact .inr (.inr (.inl ⟨g, x, he⟩))
  · exact .inr (.inr (.inr (.inl he)))
  · exact .inr (.inr (.inr (.inr ⟨m, he⟩)))

/-- Settles O33: an edge without a symbol shows no event, and a symbol shows a verdict only in STOP, where the delivery of a valid
frame appends at most one event. -/
theorem eventsOfAStepAreOrdered : Obligations.EventsOfAStepAreOrdered := by
  intro s t h
  rcases step_cases h with ⟨-, rfl⟩ | ⟨-, -, rfl⟩ | ⟨-, -, -, hc⟩
  · exact .inl rfl
  · exact .inl rfl
  rcases consume_cases hc with ⟨he, -⟩ | ⟨he, -⟩ | ⟨he, -⟩ | ⟨hp, hverdict⟩
  · exact .inl he
  · exact .inr (.inl he)
  · exact .inr (.inr (.inl he))
  refine .inr (.inr (.inr ⟨hp, ?_⟩))
  rcases hverdict with ⟨got, he, hgot, -⟩ | ⟨he, -⟩ | ⟨f, tail, -, -, he, -, htail⟩
  · exact .inl ⟨got, he, hgot⟩
  · exact .inr (.inl he)
  · exact .inr (.inr ⟨f, tail, he, OneReasmEvent.events_eq htail⟩)

/-- Settles O34: the two fatal symbols write the event and the condition alone, and in the condition the block is not ready. -/
theorem fatalSymbolsStopTheBlock : Obligations.FatalSymbolsStopTheBlock :=
  ⟨fun _ hf => ⟨consume_eos hf, consume_err hf⟩, fun _ x hf => ⟨inReady_of_fatal hf, consume_fatal hf x⟩⟩

end Sys2Proof.Machine
end
